-- ==== Sys2Proof/Word.lean ====
section
/-! DEFINITION. The value widths of the block (00_scope.md rules R8, R9): every value is unsigned. -/

namespace Sys2Proof

/-- A 32-bit word: BASE, every bus address (ADDR_W) and every word read from the bus (RD_W). -/
abbrev Word := BitVec 32

/-- An 8-bit byte: what one write to THR carries (THR_W) and one element of DATA. -/
abbrev Byte := BitVec 8

/-- A WRBYTES length field (LEN_W). -/
abbrev Len := BitVec 16

end Sys2Proof
end

