-- ==== Sys2Proof/Machine/Params.lean ====
section
/-! DEFINITION. The numeric literals of the spec, each as one named constant (00_scope.md rule R8; the source leaves
them unaudited, so a later audit changes them here and nowhere else: 93_implementation_defined.md I10). -/

namespace Sys2Proof.Const

/-- OFF_THR: the holding register. -/
def offThr : Word := 0x00
/-- OFF_LSR: the line status register. -/
def offLsr : Word := 0x14
/-- OFF_FE: the FIFO-enable register. -/
def offFe : Word := 0x98
/-- OFF_TE: the trigger-threshold-enable register. -/
def offTe : Word := 0xA0

/-- BIT_TXR: the LSR bit whose meaning depends on the mode (10_state.md rules R31, R32). -/
def bitTxr : Nat := 5
/-- BIT_TEMT: the LSR bit that is 1 when the transmitter is idle (10_state.md rule R33). -/
def bitTemt : Nat := 6

/-- FE_MASK: the spec's value of the parameter (decision D16). -/
def feMask : Word := 0x00000001
/-- TE_MASK: the spec's value of the parameter (decision D16). -/
def teMask : Word := 0x00000001

/-- MAX_LEN: the largest WRBYTES length, 2^LEN_W - 1. -/
def maxLen : Nat := 65535

end Sys2Proof.Const
end

