-- ==== Sys2Proof/Machine/SetupSeq.lean ====
section
/-! DEFINITION. The parameter SETUP_SEQ: its entries and the well-formedness that 42_drain_and_setup.md rule R143 asks of
it. A list that is not well-formed is refused: no value of type `SetupSeq` holds one. -/

namespace Sys2Proof

/-- What one bus write carries: its width n in bytes (1 or 4) and its n-byte value. -/
inductive WriteData where
  | byte (v : Byte)
  | word (v : Word)
  deriving DecidableEq, Repr

/-- The width n of a write, in bytes. -/
def WriteData.size : WriteData → Nat
  | .byte _ => 1
  | .word _ => 4

/-- The bytes of a write in rising address order: little-endian (20_memory.md rule R53). -/
def WriteData.bytes : WriteData → List Byte
  | .byte v => [v]
  | .word v => [v.extractLsb' 0 8, v.extractLsb' 8 8, v.extractLsb' 16 8, v.extractLsb' 24 8]

/-- What a setup write is for (R143). -/
inductive Purpose where
  | format
  | baud
  | fifoEn
  | rxTrig
  | txTrig
  | enable
  deriving DecidableEq, Repr

/-- The order in which purposes are served: FORMAT < BAUD < FIFO_EN < RX_TRIG < TX_TRIG < ENABLE. -/
def Purpose.rank : Purpose → Nat
  | .format => 0
  | .baud   => 1
  | .fifoEn => 2
  | .rxTrig => 3
  | .txTrig => 4
  | .enable => 5

/-- Every purpose, in order. -/
def Purpose.all : List Purpose := [.format, .baud, .fifoEn, .rxTrig, .txTrig, .enable]

/-- One entry `(purposes, off, n, v)` of SETUP_SEQ; `value` holds both n and v. -/
structure SetupEntry where
  purposes : List Purpose
  off      : Word
  value    : WriteData
  deriving DecidableEq, Repr

namespace SetupEntry

/-- The purposes form a non-empty set. -/
def purposesOk (e : SetupEntry) : Bool := !e.purposes.isEmpty && decide e.purposes.Nodup

/-- R143 item 3: no read-only register is a target, and THR is no target of a 4-byte write. -/
def targetOk (e : SetupEntry) : Bool :=
  e.off != Const.offLsr && e.off != Const.offFe && e.off != Const.offTe &&
    !(e.off == Const.offThr && e.value.size == 4)

/-- R143 item 4: a 4-byte write has an offset that is a multiple of 4. -/
def aligned (e : SetupEntry) : Bool := e.value.size != 4 || e.off.extractLsb' 0 2 == 0#2

/-- Every purpose of `e` is served no later than every purpose of `f`: max(P_e) <= min(P_f). -/
def notAfter (e f : SetupEntry) : Bool :=
  e.purposes.all fun p => f.purposes.all fun q => decide (p.rank ≤ q.rank)

end SetupEntry

/-- R143 item 1, the order: `max(P_i) <= min(P_j)` for every i < j. -/
def setupOrdered : List SetupEntry → Bool
  | []      => true
  | e :: es => es.all e.notAfter && setupOrdered es

/-- R143 item 1, the cover: every purpose is served by at least one entry (RX_TRIG and TX_TRIG among them, R148). -/
def setupCovers (es : List SetupEntry) : Bool :=
  Purpose.all.all fun p => es.any fun e => e.purposes.contains p

/-- A well-formed SETUP_SEQ (R143 items 1, 3 and 4; item 2 speaks of registers whose layout the spec does not give, and
is a premise on whoever supplies the list: log entry 6). DESIGN CHOICE: a list with a 1-byte and a 4-byte entry at one offset
is let through, as no item of R143 bars it (log entry 21, beside 20_memory.md rule R53). -/
def setupWellFormed (es : List SetupEntry) : Bool :=
  !es.isEmpty && setupCovers es && setupOrdered es &&
    es.all fun e => e.purposesOk && e.targetOk && e.aligned

/-- A well-formed SETUP_SEQ.
The default of `entries` only shows that the type has a value; no definition of the model uses it. -/
structure SetupSeq where
  entries    : List SetupEntry := [⟨Purpose.all, 0x04, .byte 0⟩]
  wellFormed : setupWellFormed entries = true := by decide
  deriving DecidableEq, Repr, Inhabited

/-- The model's answer to a proposed SETUP_SEQ: `none` refuses a list that is not well-formed. -/
def SetupSeq.ofList? (es : List SetupEntry) : Option SetupSeq :=
  if h : setupWellFormed es = true then some ⟨es, h⟩ else none

end Sys2Proof
end

