-- ==== Sys2Proof/Config.lean ====
section
/-! DEFINITION. What is fixed for one machine (the parameters of 00_scope.md rule R8 that the model takes as
arguments), and the free values: constants with no body, so that a claim that mentions one holds whatever it is. -/

namespace Sys2Proof

/-- The parameters the model takes. A state carries them, and no step changes them: a claim over all states is a claim
for every mask (91_not_in_source.md N6) and every well-formed SETUP_SEQ. -/
structure Params where
  feMask   : Word
  teMask   : Word
  setupSeq : SetupSeq
  deriving DecidableEq, Repr

/-- The peripheral's answer to read number n, where no answer stands in the state: any 32-bit value
(10_state.md rule R37; 93_implementation_defined.md I1). Log entry 1. -/
opaque Config.draw : Nat → Word

/-- SETUP_SEQ of the machine after reset: OPEN, any well-formed list (decision D24). Log entry 5. -/
opaque Config.setupSeq : SetupSeq

/-- PERI_RESET: the peripheral's register bytes after its own reset, by bus address. OPEN (decision D28): no definition
of the model reads it, as no rule of the block does (70_reset_and_hazards.md rule R182). Log entry 7. -/
opaque Config.periReset : Word → Byte

end Sys2Proof
end

