-- ==== Sys2Proof/Syntax.lean ====
section
/-! DEFINITION. The commands of the block: the raw triple the host offers, and the decoded instruction, one constructor
per row of spec/opcode_table.json (30_encoding.md rules R80 to R84). -/

namespace Sys2Proof

/-- The two operating modes (40_mode_and_ready.md rule R100). -/
inductive Mode where
  | fifo
  | legacy
  deriving DecidableEq, Repr

/-- A command as the host offers it, before decoding (R80). -/
structure Command where
  cw   : Word
  base : Word
  data : List Byte
  deriving DecidableEq, Repr

/-- A decoded command.
Every command carries BASE and DATA (R80): DATA is the payload of WRBYTES, and for any other command it is what the
acceptance check of R85 refuses unless it is empty. -/
inductive Instr where
  | detect  (base : Word) (data : List Byte)
  | ready   (base : Word) (data : List Byte)
  | wrchar  (b : Byte) (base : Word) (data : List Byte)
  | wrbytes (len : Len) (base : Word) (data : List Byte)
  | flush   (base : Word) (data : List Byte)
  | setup   (base : Word) (data : List Byte)
  | readym  (m : Mode) (base : Word) (data : List Byte)
  deriving DecidableEq, Repr

end Sys2Proof
end

