-- ==== Sys2Proof/Machine/State.lean ====
section
/-! DEFINITION. The state of the block (10_state.md rules R20 to R28 and R38), the channels that join it to the host and to
the peripheral, the observation trace (00_scope.md rule R12), and the reasons a step can stop. -/

namespace Sys2Proof.Machine

/-- `phase`, the sequencer: the block's program-counter analogue (R21). -/
inductive Phase where
  | idle
  | flagFe
  | flagTe
  | pollOnce
  | pollTx
  | writeThr
  | pollIdle
  | setupStep
  deriving DecidableEq, Repr

/-- `cmd`, the latched command (R22). -/
structure Cmd where
  op   : BitVec 4
  base : Word
  m    : Bool
  b    : Byte
  len  : Len
  data : List Byte
  deriving DecidableEq, Repr

/-- `STATUS` (R27): BUSY is bit 0 and FAULT bits 3:1; bits 31:4 are hardwired to 0 and hold no state.
`Status.word` is the 32-bit register the host reads. -/
structure Status where
  busy  : Bool
  fault : BitVec 3
  deriving DecidableEq, Repr

/-- The causes of a refusal at acceptance (60_exceptions.md rule R161). -/
inductive FaultCode where
  | illegal
  | length
  | align
  deriving DecidableEq, Repr

/-- The status of a response (10_state.md rule R40). -/
inductive RespStatus where
  | ok
  | fault (code : FaultCode)
  deriving DecidableEq, Repr

/-- One event of the observation (R12): `Accept(cmd)`, `Rd(a, v)`, `Wr(a, n, v)`, `Resp(status, r)`. -/
inductive Event where
  | accept (c : Command)
  | rd     (a v : Word)
  | wr     (a : Word) (v : WriteData)
  | resp   (status : RespStatus) (r : Word)
  deriving DecidableEq, Repr

/-- Why a step stops. Every one marks a state that no run reaches (10_state.md rule R43), to which the spec gives no step:
the machine stops where the hardware cannot be, so each is safe (log entry 9). -/
inductive Fault where
  /-- Raised by a command's meaning in a phase that no rule of that command enters. Safe. -/
  | strayPhase
  /-- Raised by the `POLL_ONCE` and `POLL_TX` steps when the mode latch is `NONE`. Safe. -/
  | modeNotLatched
  /-- Raised by the `WRITE_THR` step of WRBYTES when `idx` is past the end of `cmd.data`. Safe. -/
  | dataPastEnd
  /-- Raised by the `SETUP_STEP` step when `sidx` is past the end of SETUP_SEQ. Safe. -/
  | setupPastEnd
  /-- Raised by `step` when `phase` is not `IDLE` and `cmd.op` is no command's opcode. Safe. -/
  | noCommandLatched
  deriving DecidableEq, Repr

/-- Why the model has no answer. -/
inductive Refusal where
  /-- Raised by `exec` for an instruction that has no meaning yet; no arm does so now. Safe. -/
  | notModelled (mnemonic : String)
  deriving DecidableEq, Repr

/-- The whole state. -/
structure State where
  /-- the sequencer (R21) -/
  phase : Phase
  /-- the latched command (R22) -/
  cmd : Cmd
  /-- the FIFO-enable latch (R24) -/
  fe : Bool
  /-- the mode latch (R23); `none` is the spec's `NONE` -/
  mode : Option Mode
  /-- the index of the next byte of `cmd.data` (R25) -/
  idx : Nat
  /-- the index of the next entry of SETUP_SEQ (R26) -/
  sidx : Nat
  /-- the register STATUS (R27) -/
  status : Status
  /-- the register RESULT (R28) -/
  result : Word
  /-- the parameters of this machine (00_scope.md rule R8) -/
  params : Params
  /-- the command channel: the host's offers that wait, oldest first (R39) -/
  offers : List Command
  /-- the reset input (70_reset_and_hazards.md rule R180) -/
  resetReq : Bool
  /-- the peripheral's coming answers, next first; past its end answers are `Config.draw` (R37) -/
  answers : List Word
  /-- how many reads have been answered: the model's counter for `Config.draw` -/
  reads : Nat
  /-- the observation, oldest event first (R12) -/
  trace : List Event
  deriving DecidableEq, Repr

/-- The value `cmd` holds at reset, where the spec leaves it unspecified (R38). DESIGN CHOICE, log entry 2. -/
def Cmd.reset : Cmd := { op := 0#4, base := 0#32, m := false, b := 0#8, len := 0#16, data := [] }

/-- The machine right after reset (R38), with no command offered and nothing observed. -/
def State.reset : State where
  phase := .idle
  cmd := Cmd.reset
  fe := false
  mode := none
  idx := 0
  sidx := 0
  status := { busy := false, fault := 0#3 }
  result := 0x00000000#32
  params := { feMask := Const.feMask, teMask := Const.teMask, setupSeq := Config.setupSeq }
  offers := []
  resetReq := false
  answers := []
  reads := 0
  trace := []

/-- What every meaning and every step answers. -/
abbrev Out := Host.Outcome State Fault Refusal

end Sys2Proof.Machine
end

