-- ==== Sys2Proof/Machine/Operands.lean ====
section
/-! DEFINITION. Operands: what a command carries, the two checks acceptance makes of them, the latch `cmd` they are kept in
while the command runs, and the addresses the block issues. -/

namespace Sys2Proof

/-- Whether a list has exactly n elements, without computing its length. -/
def lengthIs {α : Type} : List α → Nat → Bool
  | [],      0     => true
  | _ :: xs, n + 1 => lengthIs xs n
  | [],      _ + 1 => false
  | _ :: _,  0     => false

namespace Instr

/-- The operand BASE. -/
def base : Instr → Word
  | .detect base _ | .ready base _ | .wrchar _ base _ | .wrbytes _ base _ | .flush base _ | .setup base _
  | .readym _ base _ => base

/-- The operand DATA. -/
def data : Instr → List Byte
  | .detect _ data | .ready _ data | .wrchar _ _ data | .wrbytes _ _ data | .flush _ data | .setup _ data
  | .readym _ _ data => data

/-- How many bytes DATA must have: L for WRBYTES, none for every other command (30_encoding.md rule R85). -/
def payloadLength : Instr → Nat
  | .wrbytes len _ _ => len.toNat
  | .detect .. | .ready .. | .wrchar .. | .flush .. | .setup .. | .readym .. => 0

/-- The check of R85, which refuses with FAULT_LENGTH. -/
def payloadFits (i : Instr) : Bool := lengthIs i.data i.payloadLength

/-- The check of 20_memory.md rule R57, which refuses with FAULT_ALIGN: BASE is a multiple of 4. -/
def baseAligned (i : Instr) : Bool := i.base.extractLsb' 0 2 == 0#2

/-- OP of each command (30_encoding.md rule R82). -/
def op : Instr → BitVec 4
  | .detect ..  => 0x1#4
  | .ready ..   => 0x2#4
  | .wrchar ..  => 0x3#4
  | .wrbytes .. => 0x4#4
  | .flush ..   => 0x5#4
  | .setup ..   => 0x6#4
  | .readym ..  => 0x7#4

end Instr

/-- The operand M: 1 means FIFO, 0 means LEGACY (30_encoding.md rule R83). -/
def Mode.ofBit (m : Bool) : Mode := if m then .fifo else .legacy

/-- The bit M of a mode operand. -/
def Mode.bit : Mode → Bool
  | .fifo   => true
  | .legacy => false

namespace Machine

/-- The latch of a command (R83). The fields a command does not use are the bits of CW that R84 makes 0. -/
def latchOf (i : Instr) : Cmd :=
  { op := i.op
    base := i.base
    m := match i with
      | .readym m _ _ => m.bit
      | .detect .. | .ready .. | .wrchar .. | .wrbytes .. | .flush .. | .setup .. => false
    b := match i with
      | .wrchar b _ _ => b
      | .detect .. | .ready .. | .wrbytes .. | .flush .. | .setup .. | .readym .. => 0#8
    len := match i with
      | .wrbytes len _ _ => len
      | .detect .. | .ready .. | .wrchar .. | .flush .. | .setup .. | .readym .. => 0#16
    data := i.data }

/-- The command a latch holds, from its `op` (R82); `none` for an `op` that is no command's. -/
def Cmd.instr? (c : Cmd) : Option Instr :=
  if c.op = 0x1#4 then some (.detect c.base c.data)
  else if c.op = 0x2#4 then some (.ready c.base c.data)
  else if c.op = 0x3#4 then some (.wrchar c.b c.base c.data)
  else if c.op = 0x4#4 then some (.wrbytes c.len c.base c.data)
  else if c.op = 0x5#4 then some (.flush c.base c.data)
  else if c.op = 0x6#4 then some (.setup c.base c.data)
  else if c.op = 0x7#4 then some (.readym (Mode.ofBit c.m) c.base c.data)
  else none

/-- The address `cmd.base + off`, mod 2^32 (00_scope.md rule R10; 20_memory.md rule R51). -/
def State.addr (s : State) (off : Word) : Word := s.cmd.base + off

end Machine

end Sys2Proof
end

