-- ==== Sys2Proof/WellFormed.lean ====
section
/-! DEFINITION. Well-formed instructions: those the acceptance checks let through (30_encoding.md rule R85, 20_memory.md
rule R57). -/

namespace Sys2Proof

/-- DATA has the length the command asks for, and BASE is a multiple of 4. -/
def Instr.wellFormed (i : Instr) : Bool := i.payloadFits && i.baseAligned

end Sys2Proof
end

