-- ==== Sys2Proof/Decode.lean ====
section
/-! DEFINITION. The decoder and the encoder of command words (30_encoding.md rules R80 to R92). -/

namespace Sys2Proof

/-- The command a row of the opcode table selects. -/
inductive Mnemonic where
  | detect
  | ready
  | wrchar
  | wrbytes
  | flush
  | setup
  | readym
  deriving DecidableEq, Repr

/-- One row of the opcode table: a command word selects it when `(CW AND mask) = pattern`. -/
structure Row where
  mn      : Mnemonic
  pattern : Word
  mask    : Word
  deriving DecidableEq, Repr

/-- The table of R84. -/
def opcodeTable : List Row :=
  [ ⟨.detect,  0x00000001#32, 0xFFFFFFFF#32⟩,
    ⟨.ready,   0x00000002#32, 0xFFFFFFFF#32⟩,
    ⟨.wrchar,  0x00000003#32, 0xFFFF00FF#32⟩,
    ⟨.wrbytes, 0x00000004#32, 0x0000FFFF#32⟩,
    ⟨.flush,   0x00000005#32, 0xFFFFFFFF#32⟩,
    ⟨.setup,   0x00000006#32, 0xFFFFFFFF#32⟩,
    ⟨.readym,  0x00000007#32, 0xFFFFFFEF#32⟩ ]

/-- Whether a command word selects a row. -/
def Row.selects (r : Row) (cw : Word) : Bool := cw &&& r.mask == r.pattern

/-- The verdict of R88 on a command word: the row it selects, or `none` for ILLEGAL. -/
def rowOf (cw : Word) : Option Row := opcodeTable.find? fun r => r.selects cw

/-- The field OP of a command word (R81). -/
def fieldOp (cw : Word) : BitVec 4 := cw.extractLsb' 0 4
/-- The field M. -/
def fieldM (cw : Word) : Bool := cw.getLsbD 4
/-- The field B. -/
def fieldB (cw : Word) : Byte := cw.extractLsb' 8 8
/-- The field L. -/
def fieldL (cw : Word) : Len := cw.extractLsb' 16 16

/-- Why a command word is illegal (R86); both reasons are refused with FAULT_ILLEGAL. -/
inductive DecodeError where
  /-- OP is 0x0 or 0x8 to 0xF -/
  | reservedOpcode (op : BitVec 4)
  /-- OP is a command's, and a bit that command does not use is set -/
  | mustBeZeroBitSet (op : BitVec 4)
  deriving DecidableEq, Repr

/-- The operands of a selected row (R83). -/
def operandsOf (mn : Mnemonic) (c : Command) : Instr :=
  match mn with
  | .detect  => .detect c.base c.data
  | .ready   => .ready c.base c.data
  | .wrchar  => .wrchar (fieldB c.cw) c.base c.data
  | .wrbytes => .wrbytes (fieldL c.cw) c.base c.data
  | .flush   => .flush c.base c.data
  | .setup   => .setup c.base c.data
  | .readym  => .readym (Mode.ofBit (fieldM c.cw)) c.base c.data

/-- The decoder, total on every command (R88). -/
def decode (c : Command) : Except DecodeError Instr :=
  match rowOf c.cw with
  | some r => .ok (operandsOf r.mn c)
  | none =>
    if fieldOp c.cw = 0#4 ∨ 8 ≤ (fieldOp c.cw).toNat then .error (.reservedOpcode (fieldOp c.cw))
    else .error (.mustBeZeroBitSet (fieldOp c.cw))

/-- The command word of an instruction (R89). -/
def encodeWord : Instr → Word
  | .detect ..       => 0x00000001#32
  | .ready ..        => 0x00000002#32
  | .wrchar b _ _    => 0x00000003#32 ||| (b.setWidth 32 <<< 8)
  | .wrbytes len _ _ => 0x00000004#32 ||| (len.setWidth 32 <<< 16)
  | .flush ..        => 0x00000005#32
  | .setup ..        => 0x00000006#32
  | .readym m _ _    => 0x00000007#32 ||| ((BitVec.ofBool m.bit).setWidth 32 <<< 4)

/-- The command of an instruction (R80, R89). -/
def encode (i : Instr) : Command := { cw := encodeWord i, base := i.base, data := i.data }

/-! ### Assembly forms (R89, R90) -/

namespace Asm

/-- `DETECT base` -/
def detect (base : Word) : Instr := .detect base []
/-- `READY base` -/
def ready (base : Word) : Instr := .ready base []
/-- `READYM base, m` -/
def readym (base : Word) (m : Mode) : Instr := .readym m base []
/-- `WRCHAR base, b` -/
def wrchar (base : Word) (b : Byte) : Instr := .wrchar b base []
/-- `WRBYTES base, (b0, ..., b(L-1))`, for at most MAX_LEN bytes -/
def wrbytes (base : Word) (bytes : List Byte) : Instr := .wrbytes (BitVec.ofNat 16 bytes.length) base bytes
/-- `WRBYTES base, "text"`: the characters are the bytes, with no terminating zero. DESIGN CHOICE: a character whose code
point is above 255 gives the low 8 bits of it (log entry 22). -/
def wrtext (base : Word) (text : List Char) : Instr := wrbytes base (text.map fun c => BitVec.ofNat 8 c.toNat)
/-- `FLUSH base` -/
def flush (base : Word) : Instr := .flush base []
/-- `SETUP base` -/
def setup (base : Word) : Instr := .setup base []
/-- the pseudo-command `REINIT base` -/
def reinit (base : Word) : List Instr := [flush base, setup base]
/-- the pseudo-command `NOPWRITE base` -/
def nopwrite (base : Word) : Instr := wrbytes base []

end Asm

/-! ### Commands written as one number -/

/-- The low n bytes of a number, least significant first. -/
def bytesOf : Nat → Nat → List Byte
  | 0,     _ => []
  | n + 1, w => BitVec.ofNat 8 w :: bytesOf n (w >>> 8)

/-- How many DATA bytes a command word calls for: a decoder knows it from CW alone (R87). -/
def payloadOf (cw : Word) : Nat :=
  match rowOf cw with
  | some ⟨.wrbytes, _, _⟩ => (fieldL cw).toNat
  | _ => 0

/-- The command whose bits are w: CW in bits 31:0, BASE in bits 63:32, then DATA byte by byte; bits from `nbits` up
are 0. -/
def commandOfBits (nbits w : Nat) : Command :=
  let v := w % 2 ^ nbits
  let cw := BitVec.ofNat 32 v
  { cw := cw, base := BitVec.ofNat 32 (v >>> 32), data := bytesOf (payloadOf cw) (v >>> 64) }

/-- The instruction the decoder reads from a command written as one number. -/
def decodeTableWord (nbits w : Nat) : Option Instr :=
  match decode (commandOfBits nbits w) with
  | .ok i    => some i
  | .error _ => none

end Sys2Proof
end

