-- ==== Sys2Proof/Machine/Flags.lean ====
section
/-! DEFINITION. Every Boolean and flag the block computes: the flag of a register word, the mode, ready and idle
predicates (40_mode_and_ready.md rules R100 to R102), the fault codes and the word the host reads from STATUS. -/

namespace Sys2Proof.Machine

/-- `b2w` (00_scope.md rule R9). -/
def b2w (b : Bool) : Word := if b then 0x00000001#32 else 0x00000000#32

/-- The flag a register word carries: `(word AND mask) != 0` (10_state.md rules R34, R35). -/
def flagSet (mask w : Word) : Bool := (w &&& mask) != 0#32

/-- The mode the two flags give: FIFO only when both are set, LEGACY otherwise (R100, R103). -/
def modeOf (fe te : Bool) : Mode := if fe && te then .fifo else .legacy

/-- `FifoThresholdMode(wfe, wte)` for any masks (R100). -/
def fifoThresholdMode (feMask teMask wfe wte : Word) : Bool := flagSet feMask wfe && flagSet teMask wte

/-- The ready predicate (R101): bit TXR reads 0 in FIFO mode and 1 in legacy mode. -/
def ready : Mode → Word → Bool
  | .fifo,   w => !w.getLsbD Const.bitTxr
  | .legacy, w => w.getLsbD Const.bitTxr

/-- The idle predicate (R102): bit TEMT reads 1. -/
def idle (w : Word) : Bool := w.getLsbD Const.bitTemt

/-- The code of a fault (60_exceptions.md rule R161). -/
def FaultCode.code : FaultCode → BitVec 3
  | .illegal => 1#3
  | .length  => 2#3
  | .align   => 3#3

/-- The word the host reads from STATUS (10_state.md rule R27). -/
def Status.word (st : Status) : Word := 0#28 ++ st.fault ++ BitVec.ofBool st.busy

/-- STATUS.FAULT keeps the first fault since reset (60_exceptions.md rule R163). -/
def Status.keepFirst (c : FaultCode) (st : Status) : Status :=
  if st.fault = 0#3 then { st with fault := c.code } else st

end Sys2Proof.Machine
end

