-- ==== Sys2Proof/Machine/Ops.lean ====
section
/-! DEFINITION. The shared operations: the observation and the bus, the sequencer, the end of a command, a refusal, command
acceptance, reset, the host's ports, and the step of each phase. The meanings in the family files are made of these. -/

namespace Sys2Proof.Machine

/-! ### The peripheral and its bus (00_scope.md rules R11, R12) -/

/-- The value the peripheral will answer to the read after k more reads: any word (10_state.md rule R37). -/
def State.answerAt (s : State) (k : Nat) : Word := s.answers[k]?.getD (Config.draw (s.reads + k))

/-- The value the peripheral answers to the next read. -/
def State.answer (s : State) : Word := s.answerAt 0

/-- `MemRead(a, 4)`: one bus transaction; it returns `s.answer`. -/
def busRead (a : Word) (s : State) : State :=
  { s with answers := s.answers.tail, reads := s.reads + 1, trace := s.trace ++ [.rd a s.answer] }

/-- `MemWrite(a, n, v)`: one bus transaction. -/
def busWrite (a : Word) (v : WriteData) (s : State) : State :=
  { s with trace := s.trace ++ [.wr a v] }

/-- The byte an event puts at bus address x: the addresses of a write's bytes wrap mod 2^32. -/
def Event.byteAt (e : Event) (x : Word) : Option Byte :=
  match e with
  | .wr a v => v.bytes[(x - a).toNat]?
  | .accept _ | .rd _ _ | .resp _ _ => none

/-- The byte the block last wrote at bus address x in a trace, if it wrote any (20_memory.md rule R53 for the byte
order). This is a view of the trace: a read by the block does not go through it (R37). -/
def lastWritten : List Event → Word → Option Byte
  | [],      _ => none
  | e :: es, x => (lastWritten es x).or (e.byteAt x)

/-! ### The sequencer -/

/-- `phase <- p`; STATUS.BUSY follows it (10_state.md rule R27, 60_exceptions.md rule R162). -/
def goTo (p : Phase) (s : State) : State :=
  { s with phase := p, status := { s.status with busy := p != .idle } }

/-! ### The two ends of a command -/

/-- `complete(r)` (60_exceptions.md rule R165). -/
def complete (r : Word) (s : State) : State :=
  goTo .idle { s with result := r, mode := none, fe := false, trace := s.trace ++ [.resp .ok r] }

/-- `raise Fault(code)` at acceptance (60_exceptions.md rule R163): the block's only exception. There is no handler and no
return from one (R169). -/
def raiseFault (c : FaultCode) (s : State) : State :=
  { s with
    result := 0x00000000#32
    status := s.status.keepFirst c
    trace := s.trace ++ [.resp (.fault c) 0x00000000#32] }

/-! ### Acceptance (60_exceptions.md rule R162) -/

/-- The block takes the host's offer c, leaving the offers `rest`, and records it. -/
def takeOffer (c : Command) (rest : List Command) (s : State) : State :=
  { s with offers := rest, trace := s.trace ++ [.accept c] }

/-- Latch a command and clear `fe`, `idx` and `sidx`. -/
def latch (i : Instr) (s : State) : State :=
  { s with cmd := latchOf i, fe := false, idx := 0, sidx := 0 }

/-- Acceptance of a command whose word is legal: the length check, then the alignment check, then the latch and the
command's acceptance action. -/
def accept (i : Instr) (action : State → State) (s : State) : State :=
  if i.payloadFits then
    if i.baseAligned then action (latch i s) else raiseFault .align s
  else raiseFault .length s

/-! ### Reset and the host's ports -/

/-- Reset (70_reset_and_hazards.md rules R180 to R182): the controller state takes its reset values; the parameters, the
waiting offers, the peripheral and what has been observed are not the controller's and stay. Log entries 2 and 8. -/
def takeReset (s : State) : State :=
  { s with
    phase := .idle, cmd := Cmd.reset, fe := false, mode := none, idx := 0, sidx := 0
    status := { busy := false, fault := 0#3 }, result := 0x00000000#32, resetReq := false }

/-- The host offers a command; it waits behind the offers made before it (10_state.md rule R39). -/
def hostOffer (c : Command) (s : State) : State := { s with offers := s.offers ++ [c] }

/-- The reset input is raised (70_reset_and_hazards.md rule R180). -/
def raiseReset (s : State) : State := { s with resetReq := true }

/-- The host reads STATUS (10_state.md rule R41). -/
def readStatus (s : State) : Word := s.status.word

/-- The host reads RESULT (10_state.md rule R41). -/
def readResult (s : State) : Word := s.result

/-! ### The step of each phase -/

/-- The step `FLAG_FE` (40_mode_and_ready.md rule R103). -/
def stepFlagFe (s : State) : State :=
  goTo .flagTe { busRead (s.addr Const.offFe) s with fe := flagSet s.params.feMask s.answer }

/-- The mode the step `FLAG_TE` computes. -/
def State.detected (s : State) : Mode := modeOf s.fe (flagSet s.params.teMask s.answer)

/-- What the step `FLAG_TE` does before its case on the command: read TE, latch the mode, clear `fe` (R103). -/
def readTe (s : State) : State :=
  { busRead (s.addr Const.offTe) s with mode := some s.detected, fe := false }

/-- The step `POLL_ONCE` (40_mode_and_ready.md rule R104). -/
def stepPollOnce (s : State) : Out :=
  match s.mode with
  | some m => .next (complete (b2w (ready m s.answer)) (busRead (s.addr Const.offLsr) s))
  | none   => .fault .modeNotLatched

/-- The step `POLL_TX` (41_transmit.md rule R120). -/
def stepPollTx (s : State) : Out :=
  match s.mode with
  | some m => .next (goTo (if ready m s.answer then .writeThr else .pollTx) (busRead (s.addr Const.offLsr) s))
  | none   => .fault .modeNotLatched

/-- What the step `WRITE_THR` does before it looks for the end: write one byte, advance `idx` (41_transmit.md rule R121). -/
def writeThr (v : Byte) (s : State) : State :=
  { busWrite (s.addr Const.offThr) (.byte v) s with idx := s.idx + 1 }

/-- The step `POLL_IDLE` (42_drain_and_setup.md rule R140). -/
def stepPollIdle (s : State) : State :=
  if idle s.answer then complete 0x00000000#32 (busRead (s.addr Const.offLsr) s)
  else goTo .pollIdle (busRead (s.addr Const.offLsr) s)

/-- What the step `SETUP_STEP` does before it looks for the end: write one entry, advance `sidx`
(42_drain_and_setup.md rule R144). -/
def writeEntry (e : SetupEntry) (s : State) : State :=
  { busWrite (s.addr e.off) e.value s with sidx := s.sidx + 1 }

/-- The step `SETUP_STEP` (42_drain_and_setup.md rule R144). -/
def stepSetup (s : State) : Out :=
  match s.params.setupSeq.entries[s.sidx]? with
  | some e =>
    .next (if s.sidx + 1 = s.params.setupSeq.entries.length then complete s.cmd.base (writeEntry e s)
      else goTo .setupStep (writeEntry e s))
  | none => .fault .setupPastEnd

end Sys2Proof.Machine
end

