-- ==== Sys2Proof/Machine/DrainSetup.lean ====
section
/-! DEFINITION. FLUSH and SETUP (42_drain_and_setup.md). A meaning is one step of the block while it runs the command: in
`IDLE` the acceptance of the command, in any other phase that phase's step (log entry 10). -/

namespace Sys2Proof.Machine

/-- FLUSH: accept, then poll LSR until the transmitter is idle (R141, R140). -/
def execFlush (base : Word) (data : List Byte) (s : State) : Out :=
  match s.phase with
  | .idle     => .next (accept (.flush base data) (goTo .pollIdle) s)
  | .pollIdle => .next (stepPollIdle s)
  | .flagFe | .flagTe | .pollOnce | .pollTx | .writeThr | .setupStep => .fault .strayPhase

/-- SETUP: accept, then one write per entry of SETUP_SEQ; it completes with BASE, the handle (R145, R144). -/
def execSetup (base : Word) (data : List Byte) (s : State) : Out :=
  match s.phase with
  | .idle      => .next (accept (.setup base data) (goTo .setupStep) s)
  | .setupStep => stepSetup s
  | .flagFe | .flagTe | .pollOnce | .pollTx | .writeThr | .pollIdle => .fault .strayPhase

end Sys2Proof.Machine
end

