-- ==== Sys2Proof/Machine/ModeReady.lean ====
section
/-! DEFINITION. DETECT, READY and READYM (40_mode_and_ready.md). A meaning is one step of the block while it runs the command:
in `IDLE` the acceptance of the command, in any other phase that phase's step (log entry 10). -/

namespace Sys2Proof.Machine

/-- DETECT: accept, read FE, read TE and complete with the mode (R107, R103). -/
def execDetect (base : Word) (data : List Byte) (s : State) : Out :=
  match s.phase with
  | .idle   => .next (accept (.detect base data) (goTo .flagFe) s)
  | .flagFe => .next (stepFlagFe s)
  | .flagTe => .next (complete (b2w (s.detected == .fifo)) (readTe s))
  | .pollOnce | .pollTx | .writeThr | .pollIdle | .setupStep => .fault .strayPhase

/-- READY: accept, read FE, read TE, read LSR once and complete with the ready predicate (R105, R103, R104). -/
def execReady (base : Word) (data : List Byte) (s : State) : Out :=
  match s.phase with
  | .idle     => .next (accept (.ready base data) (goTo .flagFe) s)
  | .flagFe   => .next (stepFlagFe s)
  | .flagTe   => .next (goTo .pollOnce (readTe s))
  | .pollOnce => stepPollOnce s
  | .pollTx | .writeThr | .pollIdle | .setupStep => .fault .strayPhase

/-- READYM: accept, taking the mode from the operand, read LSR once and complete with the ready predicate (R106, R104). -/
def execReadym (m : Mode) (base : Word) (data : List Byte) (s : State) : Out :=
  match s.phase with
  | .idle     => .next (accept (.readym m base data) (fun t => goTo .pollOnce { t with mode := some m }) s)
  | .pollOnce => stepPollOnce s
  | .flagFe | .flagTe | .pollTx | .writeThr | .pollIdle | .setupStep => .fault .strayPhase

end Sys2Proof.Machine
end

