-- ==== Sys2Proof/Machine/Transmit.lean ====
section
/-! DEFINITION. WRCHAR and WRBYTES (41_transmit.md). A meaning is one step of the block while it runs the command: in
`IDLE` the acceptance of the command, in any other phase that phase's step (log entry 10). -/

namespace Sys2Proof.Machine

/-- WRCHAR: accept, read FE and TE, poll LSR until ready, write the byte and complete (R122, R103, R120, R121). -/
def execWrchar (b : Byte) (base : Word) (data : List Byte) (s : State) : Out :=
  match s.phase with
  | .idle     => .next (accept (.wrchar b base data) (goTo .flagFe) s)
  | .flagFe   => .next (stepFlagFe s)
  | .flagTe   => .next (goTo .pollTx (readTe s))
  | .pollTx   => stepPollTx s
  | .writeThr => .next (complete 0x00000000#32 (writeThr s.cmd.b s))
  | .pollOnce | .pollIdle | .setupStep => .fault .strayPhase

/-- WRBYTES: accept, completing at once when L is 0; read FE and TE once; then for each byte poll LSR until ready and
write the byte (R123, R124, R103, R120, R121). -/
def execWrbytes (len : Len) (base : Word) (data : List Byte) (s : State) : Out :=
  match s.phase with
  | .idle =>
    .next (accept (.wrbytes len base data)
      (fun t => if len = 0#16 then complete 0x00000000#32 t else goTo .flagFe t) s)
  | .flagFe => .next (stepFlagFe s)
  | .flagTe => .next (goTo .pollTx (readTe s))
  | .pollTx => stepPollTx s
  | .writeThr =>
    match s.cmd.data[s.idx]? with
    | some v =>
      .next (if s.idx + 1 = s.cmd.len.toNat then complete 0x00000000#32 (writeThr v s) else goTo .pollTx (writeThr v s))
    | none => .fault .dataPastEnd
  | .pollOnce | .pollIdle | .setupStep => .fault .strayPhase

end Sys2Proof.Machine
end

