-- ==== Sys2Proof/Machine/Dispatch.lean ====
section
/-! DEFINITION. One arm per command. -/

namespace Sys2Proof.Machine

def exec (i : Instr) (s : State) : Host.Outcome State Fault Refusal :=
  match i with
  | .detect base data => Sys2Proof.Machine.execDetect base data s
  | .ready base data => Sys2Proof.Machine.execReady base data s
  | .wrchar b base data => Sys2Proof.Machine.execWrchar b base data s
  | .wrbytes len base data => Sys2Proof.Machine.execWrbytes len base data s
  | .flush base data => Sys2Proof.Machine.execFlush base data s
  | .setup base data => Sys2Proof.Machine.execSetup base data s
  | .readym m base data => Sys2Proof.Machine.execReadym m base data s

end Sys2Proof.Machine
end

