-- ==== Sys2Proof/Machine/Fetch.lean ====
section
/-! DEFINITION. Which command the block's next step belongs to. The block fetches nothing from memory (20_memory.md rule R66):
in `IDLE` its command is the host's oldest offer, in any other phase the latched one. -/

namespace Sys2Proof.Machine

/-- What the next step is. -/
inductive Fetched where
  /-- a step of a command, from the state in which that command's meaning starts -/
  | runs (i : Instr) (s : State)
  /-- a step that belongs to no command -/
  | settles (s : State)
  /-- `phase` is not `IDLE` and no command is latched -/
  | stray
  deriving DecidableEq, Repr

/-- The next step: reset before anything else (70_reset_and_hazards.md rule R180); in `IDLE` the oldest offer is taken and
decoded (60_exceptions.md rule R162), and with no offer the block stays as it is (R195; log entry 11); in any other
phase the latched command goes on. -/
def fetch (s : State) : Fetched :=
  if s.resetReq then .settles (takeReset s)
  else if s.phase = .idle then
    match s.offers with
    | [] => .settles s
    | c :: rest =>
      match decode c with
      | .ok i    => .runs i (takeOffer c rest s)
      | .error _ => .settles (raiseFault .illegal (takeOffer c rest s))
  else
    match s.cmd.instr? with
    | some i => .runs i s
    | none   => .stray

/-- The state in which a command is the host's oldest offer and the block, idle and not being reset, takes it next. -/
def offerNext (c : Command) (s : State) : State :=
  goTo .idle { s with resetReq := false, offers := c :: s.offers }

end Sys2Proof.Machine
end

