-- ==== Sys2Proof/Machine/Step.lean ====
section
/-! DEFINITION. One step of the block: one internal decision or one bus transaction (00_scope.md rule R6). -/

namespace Sys2Proof.Machine

/-- One step. -/
def step (s : State) : Host.Outcome State Fault Refusal :=
  match fetch s with
  | .runs i t  => exec i t
  | .settles t => .next t
  | .stray     => .fault .noCommandLatched

/-- The state whose next step accepts the command whose bits are w (log entry 12). -/
def State.withFetchWord (s : State) (nbits w : Nat) : State := offerNext (commandOfBits nbits w) s

end Sys2Proof.Machine
end

