-- ==== Sys2Proof/Safety.lean ====
section
/-! DEFINITION. What a safe run is: the invariant of every reachable state (10_state.md rule R43), the premises on the
peripheral (R37), the end of a run (70_reset_and_hazards.md rule R194) and runs of many steps. -/

namespace Sys2Proof.Machine

/-- n steps, stopping where a step does not answer a next state. -/
def run : Nat → State → Out
  | 0,     s => .next s
  | n + 1, s =>
    match step s with
    | .next t    => run n t
    | .fault r   => .fault r
    | .refused r => .refused r

end Sys2Proof.Machine

namespace Sys2Proof

open Machine

/-- The phases other than `IDLE` that a command's rules enter. -/
def Instr.phases : Instr → List Phase
  | .detect ..  => [.flagFe, .flagTe]
  | .ready ..   => [.flagFe, .flagTe, .pollOnce]
  | .wrchar ..  => [.flagFe, .flagTe, .pollTx, .writeThr]
  | .wrbytes .. => [.flagFe, .flagTe, .pollTx, .writeThr]
  | .flush ..   => [.pollIdle]
  | .setup ..   => [.setupStep]
  | .readym ..  => [.pollOnce]

end Sys2Proof

namespace Sys2Proof.Machine

/-- The phases in which the mode latch holds a mode (R43). -/
def Phase.hasMode : Phase → Bool
  | .pollOnce | .pollTx | .writeThr => true
  | .idle | .flagFe | .flagTe | .pollIdle | .setupStep => false

/-- While a command runs, `cmd` is the latch of a well-formed command, and the phase is one of its own. -/
def State.Running (s : State) : Prop :=
  ∃ i : Instr, s.cmd = latchOf i ∧ i.wellFormed = true ∧ s.phase ∈ i.phases

/-- The invariant of every reachable state: rule R43 and the bounds of rules R22 to R27. -/
structure StateInv (s : State) : Prop where
  /-- BUSY is 1 exactly when `phase` is not `IDLE` (R27, R43) -/
  busy : s.status.busy = (s.phase != .idle)
  /-- FAULT is 0, 1, 2 or 3 (R27) -/
  fault : s.status.fault.toNat ≤ 3
  /-- the mode latch holds a mode exactly in `POLL_ONCE`, `POLL_TX` and `WRITE_THR` (R43) -/
  mode : s.mode.isSome = s.phase.hasMode
  /-- the latch `fe` is set only between the two flag reads (R24) -/
  fe : s.fe = true → s.phase = .flagTe
  /-- outside `IDLE` a command runs, in a phase of its own (R21, R22, R43) -/
  running : s.phase ≠ .idle → s.Running
  /-- `idx` counts the bytes written: 0 for a command that transmits no buffer, below L for WRBYTES (R25, R43) -/
  idx : s.phase ≠ .idle → (s.cmd.op = 0x4#4 → s.idx < s.cmd.len.toNat) ∧ (s.cmd.op ≠ 0x4#4 → s.idx = 0)
  /-- 17 bits hold `idx` (R25) -/
  idxBound : s.idx ≤ Const.maxLen
  /-- in `SETUP_STEP` an entry is left to write (R43) -/
  sidx : s.phase = .setupStep → s.sidx < s.params.setupSeq.entries.length
  /-- `sidx` stays in its range (R26) -/
  sidxBound : s.sidx ≤ s.params.setupSeq.entries.length

/-- `EventuallyReady`: some coming answer is ready in mode m (10_state.md rule R37). -/
def EventuallyReady (m : Mode) (s : State) : Prop := ∃ k, ready m (s.answerAt k) = true

/-- `EventuallyIdle`: some coming answer has TEMT = 1 (10_state.md rule R37). -/
def EventuallyIdle (s : State) : Prop := ∃ k, idle (s.answerAt k) = true

/-- The run is finished (70_reset_and_hazards.md rule R194). DESIGN CHOICE: a raised reset that is not yet taken is a step
still to come, so the run is not finished before it (log entry 23). -/
def State.Finished (s : State) : Prop := s.phase = .idle ∧ s.offers = [] ∧ s.resetReq = false

/-- The commands of the boot order (70_reset_and_hazards.md rule R183): a drain where prior output may be in flight, SETUP
once, then the application's own commands. -/
def bootOrder (priorOutput : Bool) (base : Word) (app : List Instr) : List Instr :=
  (if priorOutput then [Asm.flush base] else []) ++ [Asm.setup base] ++ app

/-- A bus transaction. -/
def Event.isBus : Event → Bool
  | .rd _ _ | .wr _ _ => true
  | .accept _ | .resp _ _ => false

/-- A bus write. -/
def Event.isWrite : Event → Bool
  | .wr _ _ => true
  | .rd _ _ | .accept _ | .resp _ _ => false

/-- A response. -/
def Event.isResp : Event → Bool
  | .resp _ _ => true
  | .rd _ _ | .wr _ _ | .accept _ => false

/-- At least r of the coming answers are ready in mode m: what a transmit of r bytes waits for (R37, R190). -/
def ReadyAnswers (m : Mode) (s : State) (r : Nat) : Prop :=
  ∃ ks : List Nat, ks.Pairwise (· < ·) ∧ ks.length = r ∧ ∀ k ∈ ks, ready m (s.answerAt k) = true

/-- n reads of one address, answered by `f off`, `f (off + 1)`, ... -/
def readTrace (a : Word) (f : Nat → Word) (off n : Nat) : List Event :=
  (List.range n).map fun j => .rd a (f (off + j))

/-- Each byte of a transmit with the number of not-ready answers its poll meets: from answer number `off` on, the poll of
each byte ends on the answer after those (20_memory.md rule R63). -/
def PollsEnd (m : Mode) (f : Nat → Word) : Nat → List (Byte × Nat) → Prop
  | _, [] => True
  | off, (_, k) :: rest =>
    (∀ j < k, ready m (f (off + j)) = false) ∧ ready m (f (off + k)) = true ∧ PollsEnd m f (off + k + 1) rest

/-- The events of a transmit's polls and writes (20_memory.md rule R63). -/
def transmitTrace (lsr thr : Word) (f : Nat → Word) : Nat → List (Byte × Nat) → List Event
  | _, [] => []
  | off, (d, k) :: rest =>
    readTrace lsr f off (k + 1) ++ .wr thr (.byte d) :: transmitTrace lsr thr f (off + k + 1) rest

/-- How many steps a transmit's polls and writes take. -/
def transmitSteps : List (Byte × Nat) → Nat
  | [] => 0
  | (_, k) :: rest => k + 2 + transmitSteps rest

/-- The writes of a setup, one per entry of SETUP_SEQ (42_drain_and_setup.md rule R144). -/
def setupTrace (base : Word) (es : List SetupEntry) : List Event :=
  es.map fun e => .wr (base + e.off) e.value

/-- The bus transactions of an observation. -/
def busEvents (es : List Event) : List Event := es.filter Event.isBus

end Sys2Proof.Machine
end

