-- ==== Sys2Proof/Certificates/Slice0/Obligations.lean ====
section
/-! DEFINITION. The statements for the provers. -/

open Sys2Proof Sys2Proof.Machine

/-! ### Encoding -/

/-- 30_encoding.md sections 1 to 3: the encoder loses no operand, at any value of it. -/
def Obligations.DecodeOfEncode : Prop :=
  ∀ i : Instr, decode (encode i) = .ok i

/-- 30_encoding.md sections 2 to 4: a legal command word has one meaning, so the decoder loses no bit. -/
def Obligations.EncodeOfDecode : Prop :=
  ∀ (c : Command) (i : Instr), decode c = .ok i → encode i = c

/-- R84: a command word selects a row exactly when `(CW AND mask) = match`, and then its operands are its fields. -/
def Obligations.DecoderFollowsTheTable : Prop :=
  ∀ (c : Command) (i : Instr), decode c = .ok i ↔
    (c.cw &&& 0xFFFFFFFF#32 = 0x00000001#32 ∧ i = .detect c.base c.data) ∨
    (c.cw &&& 0xFFFFFFFF#32 = 0x00000002#32 ∧ i = .ready c.base c.data) ∨
    (c.cw &&& 0xFFFF00FF#32 = 0x00000003#32 ∧ i = .wrchar (c.cw.extractLsb' 8 8) c.base c.data) ∨
    (c.cw &&& 0x0000FFFF#32 = 0x00000004#32 ∧ i = .wrbytes (c.cw.extractLsb' 16 16) c.base c.data) ∨
    (c.cw &&& 0xFFFFFFFF#32 = 0x00000005#32 ∧ i = .flush c.base c.data) ∨
    (c.cw &&& 0xFFFFFFFF#32 = 0x00000006#32 ∧ i = .setup c.base c.data) ∨
    (c.cw &&& 0xFFFFFFEF#32 = 0x00000007#32 ∧
      i = .readym (if c.cw.getLsbD 4 then .fifo else .legacy) c.base c.data)

/-- R86: the illegal command words, and the refusal of one. -/
def Obligations.IllegalWordsAreRefused : Prop :=
  ∀ c : Command,
    ((∃ e, decode c = .error e) ↔
      c.cw.extractLsb' 0 4 = 0#4 ∨ 8 ≤ (c.cw.extractLsb' 0 4).toNat ∨
      c.cw.extractLsb' 5 3 ≠ 0#3 ∨
      (c.cw.getLsbD 4 = true ∧ c.cw.extractLsb' 0 4 ≠ 7#4) ∨
      (c.cw.extractLsb' 8 8 ≠ 0#8 ∧ c.cw.extractLsb' 0 4 ≠ 3#4) ∨
      (c.cw.extractLsb' 16 16 ≠ 0#16 ∧ c.cw.extractLsb' 0 4 ≠ 4#4)) ∧
    ∀ (s : State) (rest : List Command) (e : DecodeError),
      decode c = .error e → s.resetReq = false → s.phase = .idle → s.offers = c :: rest →
      step s = .next { s with
        offers := rest
        result := 0#32
        status := { s.status with fault := if s.status.fault = 0#3 then 1#3 else s.status.fault }
        trace := s.trace ++ [.accept c, .resp (.fault .illegal) 0#32] }

/-- 30_encoding.md section 2: no command word selects two rows. -/
def Obligations.OpcodeRowsNeverOverlap : Prop :=
  ∀ r ∈ opcodeTable, ∀ r' ∈ opcodeTable, ∀ cw : Word,
    cw &&& r.mask = r.pattern → cw &&& r'.mask = r'.pattern → r = r'

/-- 30_encoding.md section 7: words written out from the encodings decode to the commands they stand for. -/
def Obligations.WrittenOutWordsDecode : Prop :=
  decode ⟨0x00000001#32, 0xFFC02000#32, []⟩ = .ok (.detect 0xFFC02000#32 []) ∧
  decode ⟨0x00000002#32, 0xFFC02000#32, []⟩ = .ok (.ready 0xFFC02000#32 []) ∧
  decode ⟨0x00000017#32, 0xFFC02000#32, []⟩ = .ok (.readym .fifo 0xFFC02000#32 []) ∧
  decode ⟨0x00000007#32, 0xFFC02000#32, []⟩ = .ok (.readym .legacy 0xFFC02000#32 []) ∧
  decode ⟨0x00004803#32, 0xFFC02000#32, []⟩ = .ok (.wrchar 0x48#8 0xFFC02000#32 []) ∧
  decode ⟨0x00020004#32, 0xFFC02000#32, [0x41#8, 0x42#8]⟩ = .ok (.wrbytes 2#16 0xFFC02000#32 [0x41#8, 0x42#8]) ∧
  decode ⟨0x00000005#32, 0xFFC02000#32, []⟩ = .ok (.flush 0xFFC02000#32 []) ∧
  decode ⟨0x00000006#32, 0xFFC02000#32, []⟩ = .ok (.setup 0xFFC02000#32 [])

/-! ### Steps and commands -/

/-- 60_exceptions.md section 3 and log entry 10: in `IDLE` a step takes the oldest offer, records it and runs the decoded
command. -/
def Obligations.StepRunsTheOfferedCommand : Prop :=
  ∀ (s : State) (c : Command) (rest : List Command) (i : Instr),
    s.resetReq = false → s.phase = .idle → s.offers = c :: rest → decode c = .ok i →
    step s = exec i { s with offers := rest, trace := s.trace ++ [.accept c] }

/-- 10_state.md section 1 and log entry 10: outside `IDLE` a step runs the command that `cmd` latches. -/
def Obligations.StepRunsTheLatchedCommand : Prop :=
  ∀ (s : State) (c : Command) (i : Instr),
    s.resetReq = false → s.phase ≠ .idle → decode c = .ok i →
    s.cmd = { op := c.cw.extractLsb' 0 4, base := c.base, m := c.cw.getLsbD 4, b := c.cw.extractLsb' 8 8,
              len := c.cw.extractLsb' 16 16, data := c.data } →
    step s = exec i s

/-- R162, with the refusals of R163 and the latch of R83: acceptance of an offered command. -/
def Obligations.AcceptanceFollowsItsRule : Prop :=
  ∀ (s : State) (c : Command) (rest : List Command),
    s.resetReq = false → s.phase = .idle → s.offers = c :: rest →
    let op := c.cw.extractLsb' 0 4
    let badLength := (op = 4#4 ∧ c.data.length ≠ (c.cw.extractLsb' 16 16).toNat) ∨ (op ≠ 4#4 ∧ c.data.length ≠ 0)
    let refusal (f : FaultCode) (code : BitVec 3) : State := { s with
      offers := rest
      result := 0#32
      status := { s.status with fault := if s.status.fault = 0#3 then code else s.status.fault }
      trace := s.trace ++ [.accept c, .resp (.fault f) 0#32] }
    let p : Phase :=
      if op = 1#4 ∨ op = 2#4 ∨ op = 3#4 then .flagFe
      else if op = 4#4 then (if c.cw.extractLsb' 16 16 = 0#16 then .idle else .flagFe)
      else if op = 5#4 then .pollIdle
      else if op = 6#4 then .setupStep
      else .pollOnce
    (∀ e, decode c = .error e → step s = .next (refusal .illegal 1#3)) ∧
    (∀ i, decode c = .ok i → badLength → step s = .next (refusal .length 2#3)) ∧
    (∀ i, decode c = .ok i → ¬badLength → c.base.extractLsb' 0 2 ≠ 0#2 → step s = .next (refusal .align 3#3)) ∧
    (∀ i, decode c = .ok i → ¬badLength → c.base.extractLsb' 0 2 = 0#2 →
      step s = .next { s with
        phase := p
        cmd := { op := op, base := c.base, m := c.cw.getLsbD 4, b := c.cw.extractLsb' 8 8,
                 len := c.cw.extractLsb' 16 16, data := c.data }
        fe := false
        idx := 0
        sidx := 0
        mode := if op = 7#4 then some (if c.cw.getLsbD 4 then .fifo else .legacy)
                else if p = .idle then none else s.mode
        status := { s.status with busy := p != .idle }
        result := if p = .idle then 0#32 else s.result
        offers := rest
        trace := s.trace ++ .accept c :: (if p = .idle then [.resp .ok 0#32] else []) })

/-- 60_exceptions.md section 3 (the spec's own inference): whether an offer is refused, and how, depends on the offer
alone. -/
def Obligations.RefusalDependsOnTheCommandAlone : Prop :=
  ∀ (s s' : State) (c : Command) (rest rest' : List Command) (f : FaultCode),
    s.resetReq = false → s.phase = .idle → s.offers = c :: rest →
    s'.resetReq = false → s'.phase = .idle → s'.offers = c :: rest' →
    (∃ t, step s = .next t ∧ t.trace = s.trace ++ [.accept c, .resp (.fault f) 0#32]) →
    ∃ t', step s' = .next t' ∧ t'.trace = s'.trace ++ [.accept c, .resp (.fault f) 0#32]

/-- The acceptance actions of 40_mode_and_ready.md, 41_transmit.md and 42_drain_and_setup.md, command by command: from
`IDLE`, a command with the DATA it asks for and an aligned BASE is latched and starts. -/
def Obligations.AcceptedCommandsStart : Prop :=
  ∀ (s : State) (base : Word), s.phase = .idle → base.extractLsb' 0 2 = 0#2 →
    let started (p : Phase) (op : BitVec 4) (m : Bool) (b : Byte) (len : Len) (data : List Byte) : State :=
      { s with phase := p, cmd := { op := op, base := base, m := m, b := b, len := len, data := data }
               fe := false, idx := 0, sidx := 0, status := { s.status with busy := true } }
    exec (.detect base []) s = .next (started .flagFe 1#4 false 0#8 0#16 []) ∧
    exec (.ready base []) s = .next (started .flagFe 2#4 false 0#8 0#16 []) ∧
    (∀ b, exec (.wrchar b base []) s = .next (started .flagFe 3#4 false b 0#16 [])) ∧
    (∀ (len : Len) (data : List Byte), data.length = len.toNat → data ≠ [] →
      exec (.wrbytes len base data) s = .next (started .flagFe 4#4 false 0#8 len data)) ∧
    exec (.flush base []) s = .next (started .pollIdle 5#4 false 0#8 0#16 []) ∧
    exec (.setup base []) s = .next (started .setupStep 6#4 false 0#8 0#16 []) ∧
    exec (.readym .fifo base []) s = .next { started .pollOnce 7#4 true 0#8 0#16 [] with mode := some .fifo } ∧
    exec (.readym .legacy base []) s = .next { started .pollOnce 7#4 false 0#8 0#16 [] with mode := some .legacy }

/-- R124: a WRBYTES with L = 0 completes at acceptance and issues no bus transaction; the acceptance checks still apply. -/
def Obligations.ZeroLengthWriteCompletesAtAcceptance : Prop :=
  ∀ (s : State) (base : Word) (data : List Byte) (rest : List Command),
    s.resetReq = false → s.phase = .idle → s.offers = ⟨0x00000004#32, base, data⟩ :: rest →
    (data = [] → base.extractLsb' 0 2 = 0#2 →
      ∃ t, step s = .next t ∧ t.phase = .idle ∧ t.result = 0#32 ∧ t.idx = 0 ∧
        t.status = { s.status with busy := false } ∧ t.answers = s.answers ∧ t.reads = s.reads ∧
        t.trace = s.trace ++ [.accept ⟨0x00000004#32, base, []⟩, .resp .ok 0#32]) ∧
    (data ≠ [] → ∃ t, step s = .next t ∧
      t.trace = s.trace ++ [.accept ⟨0x00000004#32, base, data⟩, .resp (.fault .length) 0#32]) ∧
    (data = [] → base.extractLsb' 0 2 ≠ 0#2 → ∃ t, step s = .next t ∧
      t.trace = s.trace ++ [.accept ⟨0x00000004#32, base, data⟩, .resp (.fault .align) 0#32])

/-- R103: the two flag reads of DETECT, READY, WRCHAR and WRBYTES, FE first. -/
def Obligations.ModeDetectionReadsFeThenTe : Prop :=
  ∀ (s : State) (b : Byte) (len : Len) (base : Word) (data : List Byte),
    let w := s.answerAt 0
    let te := (w &&& s.params.teMask) != 0#32
    let m : Mode := if s.fe && te then .fifo else .legacy
    let after (p : Phase) (l : Option Mode) (off : Word) (f : Bool) : State :=
      { s with phase := p, mode := l, fe := f, status := { s.status with busy := true }, answers := s.answers.tail
               reads := s.reads + 1, trace := s.trace ++ [.rd (s.cmd.base + off) w] }
    (s.phase = .flagFe → ∀ i ∈ [Instr.detect base data, .ready base data, .wrchar b base data, .wrbytes len base data],
      exec i s = .next (after .flagTe s.mode 0x98#32 ((w &&& s.params.feMask) != 0#32))) ∧
    (s.phase = .flagTe →
      exec (.detect base data) s = .next { after .idle none 0xA0#32 false with
        result := if m = .fifo then 1#32 else 0#32
        status := { s.status with busy := false }
        trace := s.trace ++ [.rd (s.cmd.base + 0xA0#32) w, .resp .ok (if m = .fifo then 1#32 else 0#32)] } ∧
      exec (.ready base data) s = .next (after .pollOnce (some m) 0xA0#32 false) ∧
      exec (.wrchar b base data) s = .next (after .pollTx (some m) 0xA0#32 false) ∧
      exec (.wrbytes len base data) s = .next (after .pollTx (some m) 0xA0#32 false))

/-- R104: READY and READYM read LSR once and complete with the ready predicate. -/
def Obligations.ReadyCheckReadsLsrOnce : Prop :=
  ∀ (s : State) (m x : Mode) (base : Word) (data : List Byte), s.phase = .pollOnce → s.mode = some m →
    let w := s.answerAt 0
    let r : Word := if w.getLsbD 5 = (m == .legacy) then 1#32 else 0#32
    ∀ i ∈ [Instr.ready base data, .readym x base data],
      exec i s = .next { s with
        phase := .idle, mode := none, fe := false, result := r, status := { s.status with busy := false }
        answers := s.answers.tail, reads := s.reads + 1
        trace := s.trace ++ [.rd (s.cmd.base + 0x14#32) w, .resp .ok r] }

/-- R120: the transmit poll of WRCHAR and WRBYTES, one LSR read a step, until the ready predicate holds. -/
def Obligations.TransmitPollReadsLsrUntilReady : Prop :=
  ∀ (s : State) (m : Mode) (b : Byte) (len : Len) (base : Word) (data : List Byte),
    s.phase = .pollTx → s.mode = some m →
    let w := s.answerAt 0
    ∀ i ∈ [Instr.wrchar b base data, .wrbytes len base data],
      exec i s = .next { s with
        phase := if w.getLsbD 5 = (m == .legacy) then .writeThr else .pollTx
        status := { s.status with busy := true }
        answers := s.answers.tail, reads := s.reads + 1
        trace := s.trace ++ [.rd (s.cmd.base + 0x14#32) w] }

/-- R121: the byte write of WRCHAR and WRBYTES. -/
def Obligations.ByteWriteStoresOneByte : Prop :=
  ∀ (s : State) (b : Byte) (len : Len) (base : Word) (data : List Byte), s.phase = .writeThr →
    let done (v : Byte) : State := { s with
      phase := .idle, mode := none, fe := false, idx := s.idx + 1, result := 0#32
      status := { s.status with busy := false }
      trace := s.trace ++ [.wr (s.cmd.base + 0x00#32) (.byte v), .resp .ok 0#32] }
    exec (.wrchar b base data) s = .next (done s.cmd.b) ∧
    ∀ v, s.cmd.data[s.idx]? = some v →
      (s.idx + 1 = s.cmd.len.toNat → exec (.wrbytes len base data) s = .next (done v)) ∧
      (s.idx + 1 ≠ s.cmd.len.toNat → exec (.wrbytes len base data) s = .next { s with
        phase := .pollTx, idx := s.idx + 1, status := { s.status with busy := true }
        trace := s.trace ++ [.wr (s.cmd.base + 0x00#32) (.byte v)] })

/-- R140: the idle poll of FLUSH, one LSR read a step, until bit 6 reads 1. -/
def Obligations.IdlePollReadsLsrUntilIdle : Prop :=
  ∀ (s : State) (base : Word) (data : List Byte), s.phase = .pollIdle →
    let w := s.answerAt 0
    (w.getLsbD 6 = true → exec (.flush base data) s = .next { s with
      phase := .idle, mode := none, fe := false, result := 0#32, status := { s.status with busy := false }
      answers := s.answers.tail, reads := s.reads + 1
      trace := s.trace ++ [.rd (s.cmd.base + 0x14#32) w, .resp .ok 0#32] }) ∧
    (w.getLsbD 6 = false → exec (.flush base data) s = .next { s with
      phase := .pollIdle, status := { s.status with busy := true }
      answers := s.answers.tail, reads := s.reads + 1
      trace := s.trace ++ [.rd (s.cmd.base + 0x14#32) w] })

/-- R144: the setup write of SETUP. -/
def Obligations.SetupStepWritesOneEntry : Prop :=
  ∀ (s : State) (base : Word) (data : List Byte) (e : SetupEntry), s.phase = .setupStep →
    s.params.setupSeq.entries[s.sidx]? = some e →
    (s.sidx + 1 = s.params.setupSeq.entries.length → exec (.setup base data) s = .next { s with
      phase := .idle, mode := none, fe := false, sidx := s.sidx + 1, result := s.cmd.base
      status := { s.status with busy := false }
      trace := s.trace ++ [.wr (s.cmd.base + e.off) e.value, .resp .ok s.cmd.base] }) ∧
    (s.sidx + 1 ≠ s.params.setupSeq.entries.length → exec (.setup base data) s = .next { s with
      phase := .setupStep, sidx := s.sidx + 1, status := { s.status with busy := true }
      trace := s.trace ++ [.wr (s.cmd.base + e.off) e.value] })

/-- The model's own stops (log entry 9), each in a state that 10_state.md section 5 rules out: a command in a phase that
is none of its own, a poll with no mode latched, an index past the end. -/
def Obligations.CommandsStopOutsideTheirPhases : Prop :=
  ∀ (s : State) (i : Instr),
    (s.phase ≠ .idle → s.phase ∉ i.phases → exec i s = .fault .strayPhase) ∧
    (s.phase ∈ i.phases → s.phase = .pollOnce ∨ s.phase = .pollTx → s.mode = none → exec i s = .fault .modeNotLatched) ∧
    (s.phase = .writeThr → i.op = 4#4 → s.cmd.data.length ≤ s.idx → exec i s = .fault .dataPastEnd) ∧
    (s.phase = .setupStep → i.op = 6#4 → s.params.setupSeq.entries.length ≤ s.sidx →
      exec i s = .fault .setupPastEnd)

/-! ### Ends of commands, and the registers the host reads -/

/-- R165: the normal end of a command. The effect of `complete`, with nothing else changed, and that every step which
answers `Resp(OK, r)` ends in it. -/
def Obligations.CompletionHasItsEffect : Prop :=
  (∀ (r : Word) (s : State), complete r s = { s with
    result := r, mode := none, fe := false, phase := .idle, status := { s.status with busy := false }
    trace := s.trace ++ [.resp .ok r] }) ∧
  ∀ (i : Instr) (s t : State) (es : List Event) (r : Word),
    exec i s = .next t → t.trace = s.trace ++ es ++ [.resp .ok r] →
    (∃ u, t = complete r u ∧ u.trace = s.trace ++ es ∧ u.status.fault = s.status.fault ∧ u.params = s.params ∧
      u.offers = s.offers ∧ u.resetReq = s.resetReq ∧ (s.phase ≠ .idle → u.cmd = s.cmd)) ∧
    t.result = r ∧ t.mode = none ∧ t.fe = false ∧ t.phase = .idle ∧ t.status.busy = false ∧
      t.status.fault = s.status.fault

/-- R40: one response, in the step that ends the command, refused or not, with the value written to RESULT; a step that
ends no command sends none. -/
def Obligations.OneResponseEndsEachCommand : Prop :=
  ∀ s t : State, s.resetReq = false → step s = .next t →
    ∃ es, t.trace = s.trace ++ es ∧
      (es.filter Event.isResp).length = (if t.phase = .idle ∧ ¬(s.phase = .idle ∧ s.offers = []) then 1 else 0) ∧
      ∀ st r, .resp st r ∈ es → r = t.result

/-- R27: the layout of STATUS, what BUSY is, what writes FAULT and what it writes. -/
def Obligations.StatusFollowsItsRule : Prop :=
  (∀ s : State, (readStatus s).getLsbD 0 = s.status.busy ∧ (readStatus s).extractLsb' 1 3 = s.status.fault ∧
    (readStatus s).extractLsb' 4 28 = 0#28) ∧
  readStatus State.reset = 0#32 ∧
  (∀ s : State, StateInv s → ((readStatus s).getLsbD 0 = true ↔ s.phase ≠ .idle) ∧
    ((readStatus s).extractLsb' 1 3).toNat ≤ 3) ∧
  ∀ s t : State, step s = .next t →
    (s.resetReq = true → t.status.fault = 0#3) ∧
    (s.resetReq = false →
      (∀ c f, t.trace = s.trace ++ [.accept c, .resp (.fault f) 0#32] →
        t.status.fault = if s.status.fault = 0#3 then
          (if f = .illegal then 1#3 else if f = .length then 2#3 else 3#3) else s.status.fault) ∧
      ((∀ c f, t.trace ≠ s.trace ++ [.accept c, .resp (.fault f) 0#32]) → t.status.fault = s.status.fault))

/-- R28: RESULT is written by `complete` and by a refusal, with the value the response carries, 0 for a refusal. -/
def Obligations.ResultIsWrittenOnlyByResponses : Prop :=
  readResult State.reset = 0x00000000#32 ∧
  ∀ s t : State, step s = .next t →
    (s.resetReq = true → readResult t = 0#32) ∧
    (s.resetReq = false → ∃ es, t.trace = s.trace ++ es ∧
      (∀ st r, .resp st r ∈ es → readResult t = r ∧ (st = .ok ∨ r = 0#32)) ∧
      ((∀ st r, .resp st r ∉ es) → readResult t = readResult s))

/-- R22: `cmd` is written only by acceptance, stays while its command runs, and is not read in `IDLE`. -/
def Obligations.LatchedCommandIsConstant : Prop :=
  ∀ s t : State, s.resetReq = false → step s = .next t →
    (s.phase ≠ .idle → t.cmd = s.cmd) ∧
    (s.phase = .idle → t.cmd = s.cmd ∨ ∃ c rest i, s.offers = c :: rest ∧ decode c = .ok i ∧ i.wellFormed = true ∧
      t.cmd = { op := c.cw.extractLsb' 0 4, base := c.base, m := c.cw.getLsbD 4, b := c.cw.extractLsb' 8 8,
                len := c.cw.extractLsb' 16 16, data := c.data }) ∧
    (s.phase = .idle → ∀ x, ∃ y, step { s with cmd := x } = .next { t with cmd := y })

/-- R23: what writes the mode latch, and that only the `POLL_ONCE` and `POLL_TX` steps read it. -/
def Obligations.ModeLatchHasItsWriters : Prop :=
  ∀ s t : State, step s = .next t →
    (t.mode = s.mode ∨
      (t.mode = none ∧ t.phase = .idle) ∨
      (s.phase = .flagTe ∧
        t.mode = some (if s.fe && (s.answerAt 0 &&& s.params.teMask) != 0#32 then .fifo else .legacy)) ∨
      (s.phase = .idle ∧ ∃ m base rest, s.offers = encode (.readym m base []) :: rest ∧ t.mode = some m)) ∧
    (s.phase ≠ .pollOnce → s.phase ≠ .pollTx → ∀ x, ∃ y, step { s with mode := x } = .next { t with mode := y })

/-- R125: the mode of a WRBYTES is the one its own flag reads give, for every byte, and is dropped at its end. -/
def Obligations.WrbytesLatchesItsModeOnce : Prop :=
  ∀ (s t : State) (len : Len) (base : Word) (data : List Byte), exec (.wrbytes len base data) s = .next t →
    (s.phase = .flagTe →
      t.mode = some (if s.fe && (s.answerAt 0 &&& s.params.teMask) != 0#32 then .fifo else .legacy)) ∧
    (s.phase = .pollTx ∨ s.phase = .writeThr →
      (t.phase = .idle ∧ t.mode = none) ∨ ((t.phase = .pollTx ∨ t.phase = .writeThr) ∧ t.mode = s.mode))

/-- 10_state.md section 1: what writes `fe`, `idx` and `sidx`, and that no step changes the parameters. -/
def Obligations.LatchesHaveTheirWriters : Prop :=
  ∀ s t : State, step s = .next t →
    t.params = s.params ∧
    (t.fe = s.fe ∨ t.fe = false ∨ (s.phase = .flagFe ∧ t.fe = ((s.answerAt 0 &&& s.params.feMask) != 0#32))) ∧
    (t.idx = s.idx ∨ (t.idx = 0 ∧ (s.phase = .idle ∨ s.resetReq = true)) ∨ (s.phase = .writeThr ∧ t.idx = s.idx + 1)) ∧
    (t.sidx = s.sidx ∨ (t.sidx = 0 ∧ (s.phase = .idle ∨ s.resetReq = true)) ∨
      (s.phase = .setupStep ∧ t.sidx = s.sidx + 1))

/-! ### Reset and the host's ports -/

/-- R38: the controller state after reset. -/
def Obligations.ResetStateHasItsValues : Prop :=
  State.reset.phase = .idle ∧ State.reset.fe = false ∧ State.reset.mode = none ∧ State.reset.idx = 0 ∧
    State.reset.sidx = 0 ∧ readStatus State.reset = 0x00000000#32 ∧ readResult State.reset = 0x00000000#32

/-- R180: reset is taken before any other step, in any state, the middle of a command or of a poll included; it issues no
transaction and no response. `cmd` is unspecified, and what becomes of the waiting offers is left open (log entry 8). -/
def Obligations.ResetIsTakenFirst : Prop :=
  ∀ s : State, s.resetReq = true →
    ∃ c o, step s = .next { s with
      phase := .idle, cmd := c, fe := false, mode := none, idx := 0, sidx := 0
      status := { busy := false, fault := 0#3 }, result := 0#32, resetReq := false, offers := o }

/-- 70_reset_and_hazards.md section 5 (the spec's own inference): without an offer or a reset, an idle block stays as it
is (log entries 11 and 23). -/
def Obligations.IdleBlockStaysIdle : Prop :=
  ∀ (n : Nat) (s : State), s.Finished → run n s = .next s

/-- R39: an offer is taken only in `IDLE`, in one step that records it; while the block is busy every offer waits. -/
def Obligations.OffersWaitWhileBusy : Prop :=
  ∀ s t : State, s.resetReq = false → step s = .next t →
    (s.phase ≠ .idle → t.offers = s.offers ∧ ∃ es, t.trace = s.trace ++ es ∧ ∀ c, .accept c ∉ es) ∧
    (s.phase = .idle → ∀ c rest, s.offers = c :: rest → t.offers = rest ∧
      ∃ es, t.trace = s.trace ++ .accept c :: es ∧ ∀ c', .accept c' ∉ es)

/-! ### The bus -/

/-- R51, with the access rights of R36: every address and width the block issues. -/
def Obligations.EveryTransactionIsOneOfTheMap : Prop :=
  ∀ (i : Instr) (s t : State), exec i s = .next t →
    ∃ es, t.trace = s.trace ++ es ∧
      (∀ a v, .rd a v ∈ es → a = s.cmd.base + 0x14#32 ∨ a = s.cmd.base + 0x98#32 ∨ a = s.cmd.base + 0xA0#32) ∧
      (∀ a d, .wr a d ∈ es → (a = s.cmd.base + 0x00#32 ∧ ∃ v, d = .byte v) ∨
        ∃ e ∈ s.params.setupSeq.entries, a = s.cmd.base + e.off ∧ d = e.value)

/-- 20_memory.md sections 4 and 5: a step issues at most one transaction, and only a step outside `IDLE` issues one. -/
def Obligations.AtMostOneTransactionPerStep : Prop :=
  ∀ s t : State, step s = .next t →
    ∃ es, t.trace = s.trace ++ es ∧ (busEvents es).length ≤ 1 ∧
      (s.phase = .idle ∨ s.resetReq = true → busEvents es = [])

/-- 10_state.md section 2 and log entry 1: each read returns the peripheral's next answer and uses it up; a step that
reads nothing uses up none. -/
def Obligations.EachReadTakesTheNextAnswer : Prop :=
  ∀ s t : State, step s = .next t →
    ∃ es, t.trace = s.trace ++ es ∧
      ((∃ a, busEvents es = [.rd a (s.answerAt 0)] ∧ ∀ k, t.answerAt k = s.answerAt (k + 1)) ∨
       ((∀ a v, .rd a v ∉ es) ∧ ∀ k, t.answerAt k = s.answerAt k))

/-- R10: `base + off` is taken mod 2^32. -/
def Obligations.AddressesWrap : Prop :=
  ∀ (s : State) (off : Word), (s.addr off).toNat = (s.cmd.base.toNat + off.toNat) % 2 ^ 32

/-- R101: the polarity of LSR bit 5, and that no other bit counts. -/
def Obligations.ReadyPolarityDependsOnTheMode : Prop :=
  (∀ w : Word, (ready .fifo w = true ↔ w.getLsbD 5 = false) ∧ (ready .legacy w = true ↔ w.getLsbD 5 = true)) ∧
  ∀ (m : Mode) (w w' : Word), w.getLsbD 5 = w'.getLsbD 5 → ready m w = ready m w'

/-- R102: the idle predicate is LSR bit 6, and no other bit counts. -/
def Obligations.IdleDependsOnBitSixAlone : Prop :=
  (∀ w : Word, idle w = true ↔ w.getLsbD 6 = true) ∧
  ∀ w w' : Word, w.getLsbD 6 = w'.getLsbD 6 → idle w = idle w'

/-- R100: FIFO/threshold mode needs both flags, for every pair of masks. -/
def Obligations.ModeNeedsBothFlags : Prop :=
  ∀ feMask teMask wfe wte : Word,
    (fifoThresholdMode feMask teMask wfe wte = true ↔ wfe &&& feMask ≠ 0#32 ∧ wte &&& teMask ≠ 0#32) ∧
    (modeOf (flagSet feMask wfe) (flagSet teMask wte) = .fifo ↔ fifoThresholdMode feMask teMask wfe wte = true) ∧
    State.reset.params.feMask = 0x00000001#32 ∧ State.reset.params.teMask = 0x00000001#32

/-- The frame of the commands that only read (10_state.md section 2): DETECT, READY, READYM and FLUSH put no byte on the
bus. -/
def Obligations.ReadingCommandsStoreNothing : Prop :=
  ∀ (s t : State) (m : Mode) (base : Word) (data : List Byte),
    ∀ i ∈ [Instr.detect base data, .ready base data, .readym m base data, .flush base data],
      exec i s = .next t → ∀ x, lastWritten t.trace x = lastWritten s.trace x

/-- The frame of WRCHAR and WRBYTES (41_transmit.md section 1): they store one byte, at THR, in `WRITE_THR` alone. -/
def Obligations.TransmitStoresOnlyAtThr : Prop :=
  ∀ (s t : State) (b : Byte) (len : Len) (base : Word) (data : List Byte),
    ∀ i ∈ [Instr.wrchar b base data, .wrbytes len base data], exec i s = .next t →
      (s.phase ≠ .writeThr → ∀ x, lastWritten t.trace x = lastWritten s.trace x) ∧
      (s.phase = .writeThr → ∀ x, x ≠ s.addr Const.offThr → lastWritten t.trace x = lastWritten s.trace x) ∧
      (s.phase = .writeThr → lastWritten t.trace (s.addr Const.offThr) =
        if i.op = 3#4 then some s.cmd.b else s.cmd.data[s.idx]?)

/-- The frame of SETUP (42_drain_and_setup.md section 2): it stores the bytes of one entry, little-endian, at that
entry's address. -/
def Obligations.SetupStoresOnlyItsEntry : Prop :=
  ∀ (s t : State) (base : Word) (data : List Byte), exec (.setup base data) s = .next t →
    (s.phase ≠ .setupStep → ∀ x, lastWritten t.trace x = lastWritten s.trace x) ∧
    (∀ e, s.phase = .setupStep → s.params.setupSeq.entries[s.sidx]? = some e →
      (∀ x : Word, e.value.size ≤ (x - s.addr e.off).toNat → lastWritten t.trace x = lastWritten s.trace x) ∧
      (∀ v, e.value = .byte v → lastWritten t.trace (s.addr e.off) = some v) ∧
      (∀ v, e.value = .word v → ∀ k < 4,
        lastWritten t.trace (s.addr e.off + BitVec.ofNat 32 k) = some (v.extractLsb' (8 * k) 8)))

/-! ### Invariants -/

/-- 10_state.md section 5: the state after reset meets the invariant. -/
def Obligations.ResetStateMeetsTheInvariant : Prop := StateInv State.reset

/-- 10_state.md section 5 (the spec's own inference), for every state that meets it: every step keeps the invariant. -/
def Obligations.StepKeepsTheInvariant : Prop :=
  ∀ s t : State, StateInv s → step s = .next t → StateInv t

/-- 60_exceptions.md section 3 (the spec's own inference): no step from a state that meets the invariant stops. The fault
reasons are the model's own (log entry 9), and none of them is ever reached. -/
def Obligations.NoStepStops : Prop :=
  ∀ s : State, StateInv s → ∃ t, step s = .next t

/-- 10_state.md section 4: what the host and the peripheral do at their ports keeps the invariant. -/
def Obligations.PortsKeepTheInvariant : Prop :=
  ∀ (s : State) (offers : List Command) (reset : Bool) (answers : List Word),
    StateInv s → StateInv { s with offers := offers, resetReq := reset, answers := answers }

/-! ### Whole commands -/

/-- R107: DETECT, from its offer to its response. -/
def Obligations.DetectReportsTheMode : Prop :=
  ∀ (s : State) (base : Word) (rest : List Command),
    s.resetReq = false → s.phase = .idle → base.extractLsb' 0 2 = 0#2 →
    s.offers = ⟨0x00000001#32, base, []⟩ :: rest →
    let fifo := s.answerAt 0 &&& s.params.feMask ≠ 0#32 ∧ s.answerAt 1 &&& s.params.teMask ≠ 0#32
    let r : Word := if fifo then 1#32 else 0#32
    ∃ t, run 3 s = .next t ∧ t.phase = .idle ∧ t.mode = none ∧ t.offers = rest ∧ t.result = r ∧
      t.status = { s.status with busy := false } ∧
      t.trace = s.trace ++ [.accept ⟨0x00000001#32, base, []⟩, .rd (base + 0x98#32) (s.answerAt 0),
        .rd (base + 0xA0#32) (s.answerAt 1), .resp .ok r]

/-- R105: READY, from its offer to its response. -/
def Obligations.ReadyReportsTheLiveMode : Prop :=
  ∀ (s : State) (base : Word) (rest : List Command),
    s.resetReq = false → s.phase = .idle → base.extractLsb' 0 2 = 0#2 →
    s.offers = ⟨0x00000002#32, base, []⟩ :: rest →
    let fifo := s.answerAt 0 &&& s.params.feMask ≠ 0#32 ∧ s.answerAt 1 &&& s.params.teMask ≠ 0#32
    let r : Word := if (s.answerAt 2).getLsbD 5 = decide (¬fifo) then 1#32 else 0#32
    ∃ t, run 4 s = .next t ∧ t.phase = .idle ∧ t.mode = none ∧ t.offers = rest ∧ t.result = r ∧
      t.status = { s.status with busy := false } ∧
      t.trace = s.trace ++ [.accept ⟨0x00000002#32, base, []⟩, .rd (base + 0x98#32) (s.answerAt 0),
        .rd (base + 0xA0#32) (s.answerAt 1), .rd (base + 0x14#32) (s.answerAt 2), .resp .ok r]

/-- R106: READYM, from its offer to its response, in either mode. -/
def Obligations.ReadymReportsTheGivenMode : Prop :=
  ∀ (s : State) (fifo : Bool) (base : Word) (rest : List Command),
    s.resetReq = false → s.phase = .idle → base.extractLsb' 0 2 = 0#2 →
    s.offers = ⟨if fifo then 0x00000017#32 else 0x00000007#32, base, []⟩ :: rest →
    let r : Word := if (s.answerAt 0).getLsbD 5 = !fifo then 1#32 else 0#32
    ∃ t, run 2 s = .next t ∧ t.phase = .idle ∧ t.mode = none ∧ t.offers = rest ∧ t.result = r ∧
      t.status = { s.status with busy := false } ∧
      t.trace = s.trace ++ [.accept ⟨if fifo then 0x00000017#32 else 0x00000007#32, base, []⟩,
        .rd (base + 0x14#32) (s.answerAt 0), .resp .ok r]

/-- R122: WRCHAR, from its offer to its response, when poll number k is the first that finds the peripheral ready. -/
def Obligations.WrcharTransmitsItsByte : Prop :=
  ∀ (s : State) (b : Byte) (base : Word) (rest : List Command) (k : Nat),
    s.resetReq = false → s.phase = .idle → base.extractLsb' 0 2 = 0#2 →
    s.offers = ⟨0x00000003#32 ||| (b.setWidth 32 <<< 8), base, []⟩ :: rest →
    let fifo := s.answerAt 0 &&& s.params.feMask ≠ 0#32 ∧ s.answerAt 1 &&& s.params.teMask ≠ 0#32
    (∀ j < k, (s.answerAt (2 + j)).getLsbD 5 = decide fifo) → (s.answerAt (2 + k)).getLsbD 5 = decide (¬fifo) →
    ∃ t, run (k + 5) s = .next t ∧ t.phase = .idle ∧ t.mode = none ∧ t.offers = rest ∧ t.result = 0#32 ∧ t.idx = 1 ∧
      t.status = { s.status with busy := false } ∧
      t.trace = s.trace ++ [.accept ⟨0x00000003#32 ||| (b.setWidth 32 <<< 8), base, []⟩,
        .rd (base + 0x98#32) (s.answerAt 0), .rd (base + 0xA0#32) (s.answerAt 1)] ++
        readTrace (base + 0x14#32) s.answerAt 2 (k + 1) ++ [.wr (base + 0x00#32) (.byte b), .resp .ok 0#32]

/-- R123: WRBYTES, from its offer to its response: one mode detection, then for each byte, in order, polls until ready and
one write. `ps` pairs each byte with the number of not-ready answers its poll meets. -/
def Obligations.WrbytesTransmitsItsBuffer : Prop :=
  ∀ (s : State) (base : Word) (rest : List Command) (ps : List (Byte × Nat)),
    s.resetReq = false → s.phase = .idle → base.extractLsb' 0 2 = 0#2 → ps ≠ [] → ps.length ≤ 65535 →
    let c : Command := ⟨0x00000004#32 ||| (BitVec.ofNat 32 ps.length <<< 16), base, ps.map Prod.fst⟩
    s.offers = c :: rest →
    let m : Mode := if s.answerAt 0 &&& s.params.feMask ≠ 0#32 ∧ s.answerAt 1 &&& s.params.teMask ≠ 0#32
      then .fifo else .legacy
    PollsEnd m s.answerAt 2 ps →
    ∃ t, run (3 + transmitSteps ps) s = .next t ∧ t.phase = .idle ∧ t.mode = none ∧ t.offers = rest ∧
      t.result = 0#32 ∧ t.idx = ps.length ∧ t.status = { s.status with busy := false } ∧
      t.trace = s.trace ++ [.accept c, .rd (base + 0x98#32) (s.answerAt 0), .rd (base + 0xA0#32) (s.answerAt 1)] ++
        transmitTrace (base + 0x14#32) (base + 0x00#32) s.answerAt 2 ps ++ [.resp .ok 0#32]

/-- 41_transmit.md section 3 (the spec's own inference): a WRBYTES that completes, under the hypotheses of
`WrbytesTransmitsItsBuffer`, writes its bytes to THR, in order, each once, and no other byte, and the event right before
each write is an LSR read that was ready. -/
def Obligations.WrbytesWritesExactlyItsBytes : Prop :=
  ∀ (s : State) (base : Word) (rest : List Command) (ps : List (Byte × Nat)),
    s.resetReq = false → s.phase = .idle → base.extractLsb' 0 2 = 0#2 → ps ≠ [] → ps.length ≤ 65535 →
    s.offers = ⟨0x00000004#32 ||| (BitVec.ofNat 32 ps.length <<< 16), base, ps.map Prod.fst⟩ :: rest →
    let m : Mode := if s.answerAt 0 &&& s.params.feMask ≠ 0#32 ∧ s.answerAt 1 &&& s.params.teMask ≠ 0#32
      then .fifo else .legacy
    PollsEnd m s.answerAt 2 ps →
    ∃ t es, run (3 + transmitSteps ps) s = .next t ∧ t.phase = .idle ∧ t.trace = s.trace ++ es ∧
      es.filter Event.isWrite = ps.map (fun p => .wr (base + 0x00#32) (.byte p.1)) ∧
      ∀ pre post a d, es = pre ++ .wr a d :: post →
        ∃ pre' w, pre = pre' ++ [.rd (base + 0x14#32) w] ∧ ready m w = true

/-- R141: FLUSH, from its offer to its response, when read number k is the first with bit 6 = 1. -/
def Obligations.FlushEndsOnTheFirstIdleRead : Prop :=
  ∀ (s : State) (base : Word) (rest : List Command) (k : Nat),
    s.resetReq = false → s.phase = .idle → base.extractLsb' 0 2 = 0#2 →
    s.offers = ⟨0x00000005#32, base, []⟩ :: rest →
    (∀ j < k, (s.answerAt j).getLsbD 6 = false) → (s.answerAt k).getLsbD 6 = true →
    ∃ t, run (k + 2) s = .next t ∧ t.phase = .idle ∧ t.offers = rest ∧ t.result = 0#32 ∧
      t.status = { s.status with busy := false } ∧
      t.trace = s.trace ++ [.accept ⟨0x00000005#32, base, []⟩] ++ readTrace (base + 0x14#32) s.answerAt 0 (k + 1) ++
        [.resp .ok 0#32]

/-- R145: SETUP, from its offer to its response. -/
def Obligations.SetupWritesTheWholeSequence : Prop :=
  ∀ (s : State) (base : Word) (rest : List Command),
    s.resetReq = false → s.phase = .idle → base.extractLsb' 0 2 = 0#2 →
    s.offers = ⟨0x00000006#32, base, []⟩ :: rest →
    ∃ t, run (1 + s.params.setupSeq.entries.length) s = .next t ∧ t.phase = .idle ∧ t.offers = rest ∧
      t.result = base ∧ t.sidx = s.params.setupSeq.entries.length ∧ t.status = { s.status with busy := false } ∧
      t.answers = s.answers ∧ t.reads = s.reads ∧
      t.trace = s.trace ++ [.accept ⟨0x00000006#32, base, []⟩] ++ setupTrace base s.params.setupSeq.entries ++
        [.resp .ok base]

/-- 42_drain_and_setup.md section 2 (the spec's own inference): every SETUP with one BASE issues the same events, whatever
state the block and the peripheral are in. -/
def Obligations.SetupIsIdempotent : Prop :=
  ∀ (s s' : State) (base : Word) (rest rest' : List Command), base.extractLsb' 0 2 = 0#2 →
    s.resetReq = false → s.phase = .idle → s.offers = ⟨0x00000006#32, base, []⟩ :: rest →
    s'.resetReq = false → s'.phase = .idle → s'.offers = ⟨0x00000006#32, base, []⟩ :: rest' →
    s.params.setupSeq = s'.params.setupSeq →
    ∀ n ≤ 1 + s.params.setupSeq.entries.length, ∃ t t' es, run n s = .next t ∧ run n s' = .next t' ∧
      t.trace = s.trace ++ es ∧ t'.trace = s'.trace ++ es

/-- 41_transmit.md section 2 (the spec's own inference): with the same answers, WRBYTES of one byte and WRCHAR of that
byte have the same bus trace at every step. -/
def Obligations.OneByteBufferTracesAsWrchar : Prop :=
  ∀ (s : State) (b : Byte) (base : Word) (n : Nat),
    s.resetReq = false → s.phase = .idle → base.extractLsb' 0 2 = 0#2 →
    ∃ t t', run n { s with offers := [encode (.wrchar b base [])] } = .next t ∧
      run n { s with offers := [encode (.wrbytes 1#16 base [b])] } = .next t' ∧
      busEvents t.trace = busEvents t'.trace ∧ t.phase = t'.phase

/-! ### Waiting -/

/-- R129: a transmit poll that never finds the predicate true never ends; for every n, after n not-ready answers the
block still polls, has issued n LSR reads and no other event, and has taken no offer. -/
def Obligations.TransmitPollNeverTimesOut : Prop :=
  ∀ (n : Nat) (s : State) (m : Mode), s.resetReq = false → s.phase = .pollTx → s.mode = some m →
    s.cmd.op = 3#4 ∨ s.cmd.op = 4#4 → (∀ k < n, ready m (s.answerAt k) = false) →
    ∃ t, run n s = .next t ∧ t.phase = .pollTx ∧ t.mode = some m ∧ t.offers = s.offers ∧
      t.trace = s.trace ++ readTrace (s.cmd.base + 0x14#32) s.answerAt 0 n

/-- R142, with 60_exceptions.md section 3: FLUSH does not return while bit 6 reads 0, whatever bit 5 is, for any number of
reads. -/
def Obligations.FlushNeverTimesOut : Prop :=
  ∀ (n : Nat) (s : State), s.resetReq = false → s.phase = .pollIdle → s.cmd.op = 5#4 →
    (∀ k < n, (s.answerAt k).getLsbD 6 = false) →
    ∃ t, run n s = .next t ∧ t.phase = .pollIdle ∧ t.offers = s.offers ∧
      t.trace = s.trace ++ readTrace (s.cmd.base + 0x14#32) s.answerAt 0 n

/-- 10_state.md section 2, 70_reset_and_hazards.md section 3: a transmit ends once the peripheral is ready often enough,
once for each byte left. -/
def Obligations.TransmitEndsIfReadyOftenEnough : Prop :=
  ∀ (s : State) (m : Mode), StateInv s → s.resetReq = false → s.phase = .pollTx → s.mode = some m →
    ReadyAnswers m s (if s.cmd.op = 4#4 then s.cmd.len.toNat - s.idx else 1) →
    ∃ n t es, run n s = .next t ∧ t.phase = .idle ∧ t.result = 0#32 ∧ t.trace = s.trace ++ es ++ [.resp .ok 0#32]

/-- 10_state.md section 2, 70_reset_and_hazards.md section 3: FLUSH ends if the peripheral is eventually idle. -/
def Obligations.FlushEndsIfEventuallyIdle : Prop :=
  ∀ s : State, StateInv s → s.resetReq = false → s.phase = .pollIdle → EventuallyIdle s →
    ∃ n t es, run n s = .next t ∧ t.phase = .idle ∧ t.result = 0#32 ∧ t.trace = s.trace ++ es ++ [.resp .ok 0#32]

/-! ### The parameter SETUP_SEQ -/

/-- 42_drain_and_setup.md section 2: the lists the model refuses as SETUP_SEQ are those that break a numbered condition on
the list; a list that serves no RX_TRIG or no TX_TRIG is one of them. The model's own choices in it: item 2, on the meaning
of the values, is a premise (log entry 6); `targets` is equality of offsets (log entry 14); a set of purposes is a list with
no repeats (log entry 15); entries of both widths at one offset are let through (log entry 21). -/
def Obligations.IllFormedSetupSeqIsRefused : Prop :=
  ∀ es : List SetupEntry,
    ((SetupSeq.ofList? es).isSome = true ↔
      es ≠ [] ∧
      (∀ p : Purpose, ∃ e ∈ es, p ∈ e.purposes) ∧
      es.Pairwise (fun e f => ∀ p ∈ e.purposes, ∀ q ∈ f.purposes, p.rank ≤ q.rank) ∧
      (∀ e ∈ es, e.purposes ≠ [] ∧ e.purposes.Nodup) ∧
      (∀ e ∈ es, e.off ≠ 0x14#32 ∧ e.off ≠ 0x98#32 ∧ e.off ≠ 0xA0#32 ∧ ¬(e.off = 0x00#32 ∧ e.value.size = 4)) ∧
      (∀ e ∈ es, e.value.size = 4 → e.off.extractLsb' 0 2 = 0#2)) ∧
    ∀ q : SetupSeq, SetupSeq.ofList? q.entries = some q
end

