-- ==== Sys2Proof/Laws/State.lean ====
section
/-! SUPPORT. One lemma per field of State per update: what each shared operation does to it. -/

namespace Sys2Proof.Machine

variable (s : State)

/-! ### busRead -/

@[simp] theorem busRead_phase (a : Word) : (busRead a s).phase = s.phase := rfl
@[simp] theorem busRead_cmd (a : Word) : (busRead a s).cmd = s.cmd := rfl
@[simp] theorem busRead_fe (a : Word) : (busRead a s).fe = s.fe := rfl
@[simp] theorem busRead_mode (a : Word) : (busRead a s).mode = s.mode := rfl
@[simp] theorem busRead_idx (a : Word) : (busRead a s).idx = s.idx := rfl
@[simp] theorem busRead_sidx (a : Word) : (busRead a s).sidx = s.sidx := rfl
@[simp] theorem busRead_status (a : Word) : (busRead a s).status = s.status := rfl
@[simp] theorem busRead_result (a : Word) : (busRead a s).result = s.result := rfl
@[simp] theorem busRead_params (a : Word) : (busRead a s).params = s.params := rfl
@[simp] theorem busRead_offers (a : Word) : (busRead a s).offers = s.offers := rfl
@[simp] theorem busRead_resetReq (a : Word) : (busRead a s).resetReq = s.resetReq := rfl
@[simp] theorem busRead_answers (a : Word) : (busRead a s).answers = s.answers.tail := rfl
@[simp] theorem busRead_reads (a : Word) : (busRead a s).reads = s.reads + 1 := rfl
@[simp] theorem busRead_trace (a : Word) : (busRead a s).trace = s.trace ++ [.rd a s.answer] := rfl

/-! ### busWrite -/

@[simp] theorem busWrite_phase (a : Word) (v : WriteData) : (busWrite a v s).phase = s.phase := rfl
@[simp] theorem busWrite_cmd (a : Word) (v : WriteData) : (busWrite a v s).cmd = s.cmd := rfl
@[simp] theorem busWrite_fe (a : Word) (v : WriteData) : (busWrite a v s).fe = s.fe := rfl
@[simp] theorem busWrite_mode (a : Word) (v : WriteData) : (busWrite a v s).mode = s.mode := rfl
@[simp] theorem busWrite_idx (a : Word) (v : WriteData) : (busWrite a v s).idx = s.idx := rfl
@[simp] theorem busWrite_sidx (a : Word) (v : WriteData) : (busWrite a v s).sidx = s.sidx := rfl
@[simp] theorem busWrite_status (a : Word) (v : WriteData) : (busWrite a v s).status = s.status := rfl
@[simp] theorem busWrite_result (a : Word) (v : WriteData) : (busWrite a v s).result = s.result := rfl
@[simp] theorem busWrite_params (a : Word) (v : WriteData) : (busWrite a v s).params = s.params := rfl
@[simp] theorem busWrite_offers (a : Word) (v : WriteData) : (busWrite a v s).offers = s.offers := rfl
@[simp] theorem busWrite_resetReq (a : Word) (v : WriteData) : (busWrite a v s).resetReq = s.resetReq := rfl
@[simp] theorem busWrite_answers (a : Word) (v : WriteData) : (busWrite a v s).answers = s.answers := rfl
@[simp] theorem busWrite_reads (a : Word) (v : WriteData) : (busWrite a v s).reads = s.reads := rfl
@[simp] theorem busWrite_trace (a : Word) (v : WriteData) : (busWrite a v s).trace = s.trace ++ [.wr a v] := rfl

/-! ### goTo -/

@[simp] theorem goTo_phase (p : Phase) : (goTo p s).phase = p := rfl
@[simp] theorem goTo_cmd (p : Phase) : (goTo p s).cmd = s.cmd := rfl
@[simp] theorem goTo_fe (p : Phase) : (goTo p s).fe = s.fe := rfl
@[simp] theorem goTo_mode (p : Phase) : (goTo p s).mode = s.mode := rfl
@[simp] theorem goTo_idx (p : Phase) : (goTo p s).idx = s.idx := rfl
@[simp] theorem goTo_sidx (p : Phase) : (goTo p s).sidx = s.sidx := rfl
@[simp] theorem goTo_status (p : Phase) : (goTo p s).status = { s.status with busy := p != .idle } := rfl
@[simp] theorem goTo_result (p : Phase) : (goTo p s).result = s.result := rfl
@[simp] theorem goTo_params (p : Phase) : (goTo p s).params = s.params := rfl
@[simp] theorem goTo_offers (p : Phase) : (goTo p s).offers = s.offers := rfl
@[simp] theorem goTo_resetReq (p : Phase) : (goTo p s).resetReq = s.resetReq := rfl
@[simp] theorem goTo_answers (p : Phase) : (goTo p s).answers = s.answers := rfl
@[simp] theorem goTo_reads (p : Phase) : (goTo p s).reads = s.reads := rfl
@[simp] theorem goTo_trace (p : Phase) : (goTo p s).trace = s.trace := rfl

/-! ### complete -/

@[simp] theorem complete_phase (r : Word) : (complete r s).phase = .idle := rfl
@[simp] theorem complete_cmd (r : Word) : (complete r s).cmd = s.cmd := rfl
@[simp] theorem complete_fe (r : Word) : (complete r s).fe = false := rfl
@[simp] theorem complete_mode (r : Word) : (complete r s).mode = none := rfl
@[simp] theorem complete_idx (r : Word) : (complete r s).idx = s.idx := rfl
@[simp] theorem complete_sidx (r : Word) : (complete r s).sidx = s.sidx := rfl
@[simp] theorem complete_status (r : Word) : (complete r s).status = { s.status with busy := false } := rfl
@[simp] theorem complete_result (r : Word) : (complete r s).result = r := rfl
@[simp] theorem complete_params (r : Word) : (complete r s).params = s.params := rfl
@[simp] theorem complete_offers (r : Word) : (complete r s).offers = s.offers := rfl
@[simp] theorem complete_resetReq (r : Word) : (complete r s).resetReq = s.resetReq := rfl
@[simp] theorem complete_answers (r : Word) : (complete r s).answers = s.answers := rfl
@[simp] theorem complete_reads (r : Word) : (complete r s).reads = s.reads := rfl
@[simp] theorem complete_trace (r : Word) : (complete r s).trace = s.trace ++ [.resp .ok r] := rfl

/-! ### raiseFault -/

@[simp] theorem raiseFault_phase (c : FaultCode) : (raiseFault c s).phase = s.phase := rfl
@[simp] theorem raiseFault_cmd (c : FaultCode) : (raiseFault c s).cmd = s.cmd := rfl
@[simp] theorem raiseFault_fe (c : FaultCode) : (raiseFault c s).fe = s.fe := rfl
@[simp] theorem raiseFault_mode (c : FaultCode) : (raiseFault c s).mode = s.mode := rfl
@[simp] theorem raiseFault_idx (c : FaultCode) : (raiseFault c s).idx = s.idx := rfl
@[simp] theorem raiseFault_sidx (c : FaultCode) : (raiseFault c s).sidx = s.sidx := rfl
@[simp] theorem raiseFault_status (c : FaultCode) : (raiseFault c s).status = s.status.keepFirst c := rfl
@[simp] theorem raiseFault_result (c : FaultCode) : (raiseFault c s).result = 0#32 := rfl
@[simp] theorem raiseFault_params (c : FaultCode) : (raiseFault c s).params = s.params := rfl
@[simp] theorem raiseFault_offers (c : FaultCode) : (raiseFault c s).offers = s.offers := rfl
@[simp] theorem raiseFault_resetReq (c : FaultCode) : (raiseFault c s).resetReq = s.resetReq := rfl
@[simp] theorem raiseFault_answers (c : FaultCode) : (raiseFault c s).answers = s.answers := rfl
@[simp] theorem raiseFault_reads (c : FaultCode) : (raiseFault c s).reads = s.reads := rfl
@[simp] theorem raiseFault_trace (c : FaultCode) : (raiseFault c s).trace = s.trace ++ [.resp (.fault c) 0#32] := rfl

/-! ### takeOffer -/

@[simp] theorem takeOffer_phase (c : Command) (rest : List Command) : (takeOffer c rest s).phase = s.phase := rfl
@[simp] theorem takeOffer_cmd (c : Command) (rest : List Command) : (takeOffer c rest s).cmd = s.cmd := rfl
@[simp] theorem takeOffer_fe (c : Command) (rest : List Command) : (takeOffer c rest s).fe = s.fe := rfl
@[simp] theorem takeOffer_mode (c : Command) (rest : List Command) : (takeOffer c rest s).mode = s.mode := rfl
@[simp] theorem takeOffer_idx (c : Command) (rest : List Command) : (takeOffer c rest s).idx = s.idx := rfl
@[simp] theorem takeOffer_sidx (c : Command) (rest : List Command) : (takeOffer c rest s).sidx = s.sidx := rfl
@[simp] theorem takeOffer_status (c : Command) (rest : List Command) : (takeOffer c rest s).status = s.status := rfl
@[simp] theorem takeOffer_result (c : Command) (rest : List Command) : (takeOffer c rest s).result = s.result := rfl
@[simp] theorem takeOffer_params (c : Command) (rest : List Command) : (takeOffer c rest s).params = s.params := rfl
@[simp] theorem takeOffer_offers (c : Command) (rest : List Command) : (takeOffer c rest s).offers = rest := rfl
@[simp] theorem takeOffer_resetReq (c : Command) (rest : List Command) : (takeOffer c rest s).resetReq = s.resetReq := rfl
@[simp] theorem takeOffer_answers (c : Command) (rest : List Command) : (takeOffer c rest s).answers = s.answers := rfl
@[simp] theorem takeOffer_reads (c : Command) (rest : List Command) : (takeOffer c rest s).reads = s.reads := rfl
@[simp] theorem takeOffer_trace (c : Command) (rest : List Command) : (takeOffer c rest s).trace = s.trace ++ [.accept c] := rfl

/-! ### latch -/

@[simp] theorem latch_phase (i : Instr) : (latch i s).phase = s.phase := rfl
@[simp] theorem latch_cmd (i : Instr) : (latch i s).cmd = latchOf i := rfl
@[simp] theorem latch_fe (i : Instr) : (latch i s).fe = false := rfl
@[simp] theorem latch_mode (i : Instr) : (latch i s).mode = s.mode := rfl
@[simp] theorem latch_idx (i : Instr) : (latch i s).idx = 0 := rfl
@[simp] theorem latch_sidx (i : Instr) : (latch i s).sidx = 0 := rfl
@[simp] theorem latch_status (i : Instr) : (latch i s).status = s.status := rfl
@[simp] theorem latch_result (i : Instr) : (latch i s).result = s.result := rfl
@[simp] theorem latch_params (i : Instr) : (latch i s).params = s.params := rfl
@[simp] theorem latch_offers (i : Instr) : (latch i s).offers = s.offers := rfl
@[simp] theorem latch_resetReq (i : Instr) : (latch i s).resetReq = s.resetReq := rfl
@[simp] theorem latch_answers (i : Instr) : (latch i s).answers = s.answers := rfl
@[simp] theorem latch_reads (i : Instr) : (latch i s).reads = s.reads := rfl
@[simp] theorem latch_trace (i : Instr) : (latch i s).trace = s.trace := rfl

/-! ### takeReset -/

@[simp] theorem takeReset_phase : (takeReset s).phase = .idle := rfl
@[simp] theorem takeReset_cmd : (takeReset s).cmd = Cmd.reset := rfl
@[simp] theorem takeReset_fe : (takeReset s).fe = false := rfl
@[simp] theorem takeReset_mode : (takeReset s).mode = none := rfl
@[simp] theorem takeReset_idx : (takeReset s).idx = 0 := rfl
@[simp] theorem takeReset_sidx : (takeReset s).sidx = 0 := rfl
@[simp] theorem takeReset_status : (takeReset s).status = { busy := false, fault := 0#3 } := rfl
@[simp] theorem takeReset_result : (takeReset s).result = 0#32 := rfl
@[simp] theorem takeReset_params : (takeReset s).params = s.params := rfl
@[simp] theorem takeReset_offers : (takeReset s).offers = s.offers := rfl
@[simp] theorem takeReset_resetReq : (takeReset s).resetReq = false := rfl
@[simp] theorem takeReset_answers : (takeReset s).answers = s.answers := rfl
@[simp] theorem takeReset_reads : (takeReset s).reads = s.reads := rfl
@[simp] theorem takeReset_trace : (takeReset s).trace = s.trace := rfl

/-! ### hostOffer -/

@[simp] theorem hostOffer_phase (c : Command) : (hostOffer c s).phase = s.phase := rfl
@[simp] theorem hostOffer_cmd (c : Command) : (hostOffer c s).cmd = s.cmd := rfl
@[simp] theorem hostOffer_fe (c : Command) : (hostOffer c s).fe = s.fe := rfl
@[simp] theorem hostOffer_mode (c : Command) : (hostOffer c s).mode = s.mode := rfl
@[simp] theorem hostOffer_idx (c : Command) : (hostOffer c s).idx = s.idx := rfl
@[simp] theorem hostOffer_sidx (c : Command) : (hostOffer c s).sidx = s.sidx := rfl
@[simp] theorem hostOffer_status (c : Command) : (hostOffer c s).status = s.status := rfl
@[simp] theorem hostOffer_result (c : Command) : (hostOffer c s).result = s.result := rfl
@[simp] theorem hostOffer_params (c : Command) : (hostOffer c s).params = s.params := rfl
@[simp] theorem hostOffer_offers (c : Command) : (hostOffer c s).offers = s.offers ++ [c] := rfl
@[simp] theorem hostOffer_resetReq (c : Command) : (hostOffer c s).resetReq = s.resetReq := rfl
@[simp] theorem hostOffer_answers (c : Command) : (hostOffer c s).answers = s.answers := rfl
@[simp] theorem hostOffer_reads (c : Command) : (hostOffer c s).reads = s.reads := rfl
@[simp] theorem hostOffer_trace (c : Command) : (hostOffer c s).trace = s.trace := rfl

/-! ### raiseReset -/

@[simp] theorem raiseReset_phase : (raiseReset s).phase = s.phase := rfl
@[simp] theorem raiseReset_cmd : (raiseReset s).cmd = s.cmd := rfl
@[simp] theorem raiseReset_fe : (raiseReset s).fe = s.fe := rfl
@[simp] theorem raiseReset_mode : (raiseReset s).mode = s.mode := rfl
@[simp] theorem raiseReset_idx : (raiseReset s).idx = s.idx := rfl
@[simp] theorem raiseReset_sidx : (raiseReset s).sidx = s.sidx := rfl
@[simp] theorem raiseReset_status : (raiseReset s).status = s.status := rfl
@[simp] theorem raiseReset_result : (raiseReset s).result = s.result := rfl
@[simp] theorem raiseReset_params : (raiseReset s).params = s.params := rfl
@[simp] theorem raiseReset_offers : (raiseReset s).offers = s.offers := rfl
@[simp] theorem raiseReset_resetReq : (raiseReset s).resetReq = true := rfl
@[simp] theorem raiseReset_answers : (raiseReset s).answers = s.answers := rfl
@[simp] theorem raiseReset_reads : (raiseReset s).reads = s.reads := rfl
@[simp] theorem raiseReset_trace : (raiseReset s).trace = s.trace := rfl

/-! ### readTe -/

@[simp] theorem readTe_phase : (readTe s).phase = s.phase := rfl
@[simp] theorem readTe_cmd : (readTe s).cmd = s.cmd := rfl
@[simp] theorem readTe_fe : (readTe s).fe = false := rfl
@[simp] theorem readTe_mode : (readTe s).mode = some s.detected := rfl
@[simp] theorem readTe_idx : (readTe s).idx = s.idx := rfl
@[simp] theorem readTe_sidx : (readTe s).sidx = s.sidx := rfl
@[simp] theorem readTe_status : (readTe s).status = s.status := rfl
@[simp] theorem readTe_result : (readTe s).result = s.result := rfl
@[simp] theorem readTe_params : (readTe s).params = s.params := rfl
@[simp] theorem readTe_offers : (readTe s).offers = s.offers := rfl
@[simp] theorem readTe_resetReq : (readTe s).resetReq = s.resetReq := rfl
@[simp] theorem readTe_answers : (readTe s).answers = s.answers.tail := rfl
@[simp] theorem readTe_reads : (readTe s).reads = s.reads + 1 := rfl
@[simp] theorem readTe_trace : (readTe s).trace = s.trace ++ [.rd (s.addr Const.offTe) s.answer] := rfl

/-! ### stepFlagFe -/

@[simp] theorem stepFlagFe_phase : (stepFlagFe s).phase = .flagTe := rfl
@[simp] theorem stepFlagFe_cmd : (stepFlagFe s).cmd = s.cmd := rfl
@[simp] theorem stepFlagFe_fe : (stepFlagFe s).fe = flagSet s.params.feMask s.answer := rfl
@[simp] theorem stepFlagFe_mode : (stepFlagFe s).mode = s.mode := rfl
@[simp] theorem stepFlagFe_idx : (stepFlagFe s).idx = s.idx := rfl
@[simp] theorem stepFlagFe_sidx : (stepFlagFe s).sidx = s.sidx := rfl
@[simp] theorem stepFlagFe_status : (stepFlagFe s).status = { s.status with busy := true } := rfl
@[simp] theorem stepFlagFe_result : (stepFlagFe s).result = s.result := rfl
@[simp] theorem stepFlagFe_params : (stepFlagFe s).params = s.params := rfl
@[simp] theorem stepFlagFe_offers : (stepFlagFe s).offers = s.offers := rfl
@[simp] theorem stepFlagFe_resetReq : (stepFlagFe s).resetReq = s.resetReq := rfl
@[simp] theorem stepFlagFe_answers : (stepFlagFe s).answers = s.answers.tail := rfl
@[simp] theorem stepFlagFe_reads : (stepFlagFe s).reads = s.reads + 1 := rfl
@[simp] theorem stepFlagFe_trace : (stepFlagFe s).trace = s.trace ++ [.rd (s.addr Const.offFe) s.answer] := rfl

/-! ### writeThr -/

@[simp] theorem writeThr_phase (v : Byte) : (writeThr v s).phase = s.phase := rfl
@[simp] theorem writeThr_cmd (v : Byte) : (writeThr v s).cmd = s.cmd := rfl
@[simp] theorem writeThr_fe (v : Byte) : (writeThr v s).fe = s.fe := rfl
@[simp] theorem writeThr_mode (v : Byte) : (writeThr v s).mode = s.mode := rfl
@[simp] theorem writeThr_idx (v : Byte) : (writeThr v s).idx = s.idx + 1 := rfl
@[simp] theorem writeThr_sidx (v : Byte) : (writeThr v s).sidx = s.sidx := rfl
@[simp] theorem writeThr_status (v : Byte) : (writeThr v s).status = s.status := rfl
@[simp] theorem writeThr_result (v : Byte) : (writeThr v s).result = s.result := rfl
@[simp] theorem writeThr_params (v : Byte) : (writeThr v s).params = s.params := rfl
@[simp] theorem writeThr_offers (v : Byte) : (writeThr v s).offers = s.offers := rfl
@[simp] theorem writeThr_resetReq (v : Byte) : (writeThr v s).resetReq = s.resetReq := rfl
@[simp] theorem writeThr_answers (v : Byte) : (writeThr v s).answers = s.answers := rfl
@[simp] theorem writeThr_reads (v : Byte) : (writeThr v s).reads = s.reads := rfl
@[simp] theorem writeThr_trace (v : Byte) : (writeThr v s).trace = s.trace ++ [.wr (s.addr Const.offThr) (.byte v)] := rfl

/-! ### writeEntry -/

@[simp] theorem writeEntry_phase (e : SetupEntry) : (writeEntry e s).phase = s.phase := rfl
@[simp] theorem writeEntry_cmd (e : SetupEntry) : (writeEntry e s).cmd = s.cmd := rfl
@[simp] theorem writeEntry_fe (e : SetupEntry) : (writeEntry e s).fe = s.fe := rfl
@[simp] theorem writeEntry_mode (e : SetupEntry) : (writeEntry e s).mode = s.mode := rfl
@[simp] theorem writeEntry_idx (e : SetupEntry) : (writeEntry e s).idx = s.idx := rfl
@[simp] theorem writeEntry_sidx (e : SetupEntry) : (writeEntry e s).sidx = s.sidx + 1 := rfl
@[simp] theorem writeEntry_status (e : SetupEntry) : (writeEntry e s).status = s.status := rfl
@[simp] theorem writeEntry_result (e : SetupEntry) : (writeEntry e s).result = s.result := rfl
@[simp] theorem writeEntry_params (e : SetupEntry) : (writeEntry e s).params = s.params := rfl
@[simp] theorem writeEntry_offers (e : SetupEntry) : (writeEntry e s).offers = s.offers := rfl
@[simp] theorem writeEntry_resetReq (e : SetupEntry) : (writeEntry e s).resetReq = s.resetReq := rfl
@[simp] theorem writeEntry_answers (e : SetupEntry) : (writeEntry e s).answers = s.answers := rfl
@[simp] theorem writeEntry_reads (e : SetupEntry) : (writeEntry e s).reads = s.reads := rfl
@[simp] theorem writeEntry_trace (e : SetupEntry) : (writeEntry e s).trace = s.trace ++ [.wr (s.addr e.off) e.value] := rfl

end Sys2Proof.Machine
end

