-- ==== Sys2Proof/Laws/Bus.lean ====
section
/-! SUPPORT. The peripheral's answers and the view of the bytes the block has written. -/

namespace Sys2Proof.Machine

/-! ### Answers -/

/-- The coming answers depend on the peripheral's part of the state alone. -/
theorem answerAt_congr {s t : State} (ha : t.answers = s.answers) (hr : t.reads = s.reads) (k : Nat) :
    t.answerAt k = s.answerAt k := by
  simp [State.answerAt, ha, hr]

/-- A read takes one answer: the coming ones move up by one place. -/
theorem answerAt_after_read {s t : State} (ha : t.answers = s.answers.tail) (hr : t.reads = s.reads + 1) (k : Nat) :
    t.answerAt k = s.answerAt (k + 1) := by
  have : s.reads + 1 + k = s.reads + (k + 1) := by omega
  simp [State.answerAt, ha, hr, this]

@[simp] theorem busRead_answerAt (a : Word) (s : State) (k : Nat) :
    (busRead a s).answerAt k = s.answerAt (k + 1) := answerAt_after_read rfl rfl k

@[simp] theorem readTe_answerAt (s : State) (k : Nat) : (readTe s).answerAt k = s.answerAt (k + 1) :=
  answerAt_after_read rfl rfl k

@[simp] theorem stepFlagFe_answerAt (s : State) (k : Nat) : (stepFlagFe s).answerAt k = s.answerAt (k + 1) :=
  answerAt_after_read rfl rfl k

@[simp] theorem goTo_answerAt (p : Phase) (s : State) (k : Nat) : (goTo p s).answerAt k = s.answerAt k := rfl
@[simp] theorem complete_answerAt (r : Word) (s : State) (k : Nat) : (complete r s).answerAt k = s.answerAt k := rfl
@[simp] theorem writeThr_answerAt (v : Byte) (s : State) (k : Nat) : (writeThr v s).answerAt k = s.answerAt k := rfl
@[simp] theorem writeEntry_answerAt (e : SetupEntry) (s : State) (k : Nat) : (writeEntry e s).answerAt k = s.answerAt k := rfl
@[simp] theorem latch_answerAt (i : Instr) (s : State) (k : Nat) : (latch i s).answerAt k = s.answerAt k := rfl
@[simp] theorem takeOffer_answerAt (c : Command) (rest : List Command) (s : State) (k : Nat) :
    (takeOffer c rest s).answerAt k = s.answerAt k := rfl

/-! ### The bytes the block has written -/

/-- A later event decides, an earlier one answers where it writes nothing. -/
theorem lastWritten_append (es fs : List Event) (x : Word) :
    lastWritten (es ++ fs) x = (lastWritten fs x).or (lastWritten es x) := by
  induction es with
  | nil => simp [lastWritten]
  | cons e es ih => simp [lastWritten, ih, Option.or_assoc]

/-- An event that writes no byte at x leaves the byte at x as it was. -/
theorem lastWritten_append_of_none {e : Event} {x : Word} (h : e.byteAt x = none) (es : List Event) :
    lastWritten (es ++ [e]) x = lastWritten es x := by
  simp [lastWritten_append, lastWritten, h]

/-- Events that write no byte at x leave the byte at x as it was. -/
theorem lastWritten_append_of_all_none {fs : List Event} {x : Word} (h : ∀ e ∈ fs, e.byteAt x = none)
    (es : List Event) : lastWritten (es ++ fs) x = lastWritten es x := by
  rw [lastWritten_append]
  induction fs with
  | nil => simp [lastWritten]
  | cons f fs ih =>
    have hf := h f (by simp)
    have := ih fun e he => h e (by simp [he])
    simpa [lastWritten, hf] using this

@[simp] theorem byteAt_accept (c : Command) (x : Word) : (Event.accept c).byteAt x = none := rfl
@[simp] theorem byteAt_rd (a v x : Word) : (Event.rd a v).byteAt x = none := rfl
@[simp] theorem byteAt_resp (st : RespStatus) (r x : Word) : (Event.resp st r).byteAt x = none := rfl

/-- A byte write puts its byte at its own address. -/
theorem byteAt_wr_byte_self (a : Word) (v : Byte) : (Event.wr a (.byte v)).byteAt a = some v := by
  simp [Event.byteAt, WriteData.bytes]

/-- A byte write puts nothing at any other address. -/
theorem byteAt_wr_byte_ne {a x : Word} (v : Byte) (h : x ≠ a) : (Event.wr a (.byte v)).byteAt x = none := by
  have hx : (x - a).toNat ≠ 0 := fun h0 => h (by bv_omega)
  exact List.getElem?_eq_none (Nat.one_le_iff_ne_zero.mpr hx)

/-- A write of n bytes puts nothing outside them. -/
theorem byteAt_wr_outside {a x : Word} (v : WriteData) (h : v.size ≤ (x - a).toNat) :
    (Event.wr a v).byteAt x = none := by
  cases v <;> exact List.getElem?_eq_none h

/-! ### Kinds of events -/

@[simp] theorem isBus_accept (c : Command) : (Event.accept c).isBus = false := rfl
@[simp] theorem isBus_rd (a v : Word) : (Event.rd a v).isBus = true := rfl
@[simp] theorem isBus_wr (a : Word) (d : WriteData) : (Event.wr a d).isBus = true := rfl
@[simp] theorem isBus_resp (st : RespStatus) (r : Word) : (Event.resp st r).isBus = false := rfl
@[simp] theorem isWrite_accept (c : Command) : (Event.accept c).isWrite = false := rfl
@[simp] theorem isWrite_rd (a v : Word) : (Event.rd a v).isWrite = false := rfl
@[simp] theorem isWrite_wr (a : Word) (d : WriteData) : (Event.wr a d).isWrite = true := rfl
@[simp] theorem isWrite_resp (st : RespStatus) (r : Word) : (Event.resp st r).isWrite = false := rfl
@[simp] theorem isResp_accept (c : Command) : (Event.accept c).isResp = false := rfl
@[simp] theorem isResp_rd (a v : Word) : (Event.rd a v).isResp = false := rfl
@[simp] theorem isResp_wr (a : Word) (d : WriteData) : (Event.wr a d).isResp = false := rfl
@[simp] theorem isResp_resp (st : RespStatus) (r : Word) : (Event.resp st r).isResp = true := rfl

/-! ### One transmit byte after another -/

theorem readTrace_succ (a : Word) (f : Nat → Word) (off n : Nat) :
    readTrace a f off (n + 1) = .rd a (f off) :: readTrace a f (off + 1) n := by
  have (j : Nat) : f (off + (j + 1)) = f (off + 1 + j) := by congr 1; omega
  rw [readTrace, readTrace, List.range_succ_eq_map, List.map_cons, List.map_map]
  simp only [Function.comp_def, Nat.succ_eq_add_one, this, Nat.add_zero]

theorem readTrace_no_writes (a : Word) (f : Nat → Word) (off n : Nat) :
    (readTrace a f off n).filter Event.isWrite = [] := by
  simp [readTrace]

/-- The writes of a transmit's polls and writes are its bytes, in order. -/
theorem transmitTrace_writes (lsr thr : Word) (f : Nat → Word) (off : Nat) (ps : List (Byte × Nat)) :
    (transmitTrace lsr thr f off ps).filter Event.isWrite = ps.map fun p => .wr thr (.byte p.1) := by
  induction ps generalizing off with
  | nil => rfl
  | cons p ps ih =>
    obtain ⟨d, k⟩ := p
    simp [transmitTrace, List.filter_append, List.filter_cons, readTrace_no_writes, ih]

end Sys2Proof.Machine
end

