-- ==== Sys2Proof/Laws/Decode.lean ====
section
/-! SUPPORT. The decoder row by row. -/

namespace Sys2Proof

/-- The decoder's verdict as a chain of rows. -/
theorem decode_eq (c : Command) :
    decode c =
      if c.cw = 0x00000001#32 then .ok (.detect c.base c.data)
      else if c.cw = 0x00000002#32 then .ok (.ready c.base c.data)
      else if c.cw &&& 0xFFFF00FF#32 = 0x00000003#32 then .ok (.wrchar (fieldB c.cw) c.base c.data)
      else if c.cw &&& 0x0000FFFF#32 = 0x00000004#32 then .ok (.wrbytes (fieldL c.cw) c.base c.data)
      else if c.cw = 0x00000005#32 then .ok (.flush c.base c.data)
      else if c.cw = 0x00000006#32 then .ok (.setup c.base c.data)
      else if c.cw &&& 0xFFFFFFEF#32 = 0x00000007#32 then .ok (.readym (Mode.ofBit (fieldM c.cw)) c.base c.data)
      else if fieldOp c.cw = 0 ∨ 8 ≤ (fieldOp c.cw).toNat then .error (.reservedOpcode (fieldOp c.cw))
      else .error (.mustBeZeroBitSet (fieldOp c.cw)) := by
  have hall : c.cw &&& 0xFFFFFFFF#32 = c.cw := BitVec.and_allOnes
  simp only [decode, rowOf, opcodeTable, Row.selects, List.find?_cons, List.find?_nil, beq_eq_decide]
  by_cases h1 : c.cw = 1#32
  · simp [h1, operandsOf]
  by_cases h2 : c.cw = 2#32
  · simp [h2, operandsOf]
  by_cases h3 : c.cw &&& 0xFFFF00FF#32 = 3#32
  · simp [hall, h1, h2, h3, operandsOf]
  by_cases h4 : c.cw &&& 0x0000FFFF#32 = 4#32
  · simp [hall, h1, h2, h3, h4, operandsOf]
  by_cases h5 : c.cw = 5#32
  · simp [h5, operandsOf]
  by_cases h6 : c.cw = 6#32
  · simp [h6, operandsOf]
  by_cases h7 : c.cw &&& 0xFFFFFFEF#32 = 7#32
  · simp [hall, h1, h2, h3, h4, h5, h6, h7, operandsOf]
  simp [hall, h1, h2, h3, h4, h5, h6, h7]

end Sys2Proof
end

