-- ==== Sys2Proof/Laws/Ops.lean ====
section
/-! SUPPORT. One lemma per shared operation: all it can do. -/

namespace Sys2Proof

/-! ### Operands -/

theorem lengthIs_iff {α : Type} (xs : List α) (n : Nat) : lengthIs xs n = true ↔ xs.length = n := by
  induction xs generalizing n with
  | nil => cases n <;> simp [lengthIs]
  | cons x xs ih => cases n <;> simp [lengthIs, ih]

/-- R85 in the spec's words: DATA has L bytes for WRBYTES and none for every other command. -/
theorem Instr.payloadFits_iff (i : Instr) : i.payloadFits = true ↔ i.data.length = i.payloadLength :=
  lengthIs_iff _ _

/-- R57 in the spec's words. -/
theorem Instr.baseAligned_iff (i : Instr) : i.baseAligned = true ↔ i.base.extractLsb' 0 2 = 0#2 := by
  simp [Instr.baseAligned]

@[simp] theorem Mode.ofBit_bit (m : Mode) : Mode.ofBit m.bit = m := by cases m <;> rfl
@[simp] theorem Mode.bit_ofBit (b : Bool) : (Mode.ofBit b).bit = b := by cases b <;> rfl

namespace Machine

/-- The latch of a command holds that command. -/
@[simp] theorem latchOf_instr? (i : Instr) : (latchOf i).instr? = some i := by
  cases i <;> simp [latchOf, Cmd.instr?, Instr.op, Instr.base, Instr.data]

/-! ### Flags -/

theorem keepFirst_busy (c : FaultCode) (st : Status) : (st.keepFirst c).busy = st.busy := by
  unfold Status.keepFirst; split <;> rfl

theorem keepFirst_of_zero (c : FaultCode) {st : Status} (h : st.fault = 0#3) : (st.keepFirst c).fault = c.code := by
  simp [Status.keepFirst, h]

theorem keepFirst_of_ne (c : FaultCode) {st : Status} (h : st.fault ≠ 0#3) : st.keepFirst c = st := by
  exact if_neg h

theorem ready_legacy (w : Word) : ready .legacy w = !ready .fifo w := by simp [ready]

/-- R101 as one equation: ready is bit 5 differing from the mode's own bit. -/
theorem ready_eq (m : Mode) (w : Word) : ready m w = decide (w.getLsbD 5 = (m == .legacy)) := by
  have hf : (Mode.fifo == Mode.legacy) = false := rfl
  cases m <;> simp [ready, Const.bitTxr, hf]

/-- A well-formed SETUP_SEQ has an entry (R143). -/
theorem setupSeq_pos (q : SetupSeq) : 0 < q.entries.length := by
  have := q.wellFormed
  rcases h : q.entries with _ | ⟨e, es⟩
  · rw [h] at this; simp [setupWellFormed] at this
  · simp

/-! ### Acceptance and the phase steps -/

/-- What acceptance of a legal command word does: one of two refusals, or the latch and the command's own action. -/
theorem accept_cases (i : Instr) (action : State → State) (s : State) :
    (i.payloadFits = false ∧ accept i action s = raiseFault .length s) ∨
    (i.payloadFits = true ∧ i.baseAligned = false ∧ accept i action s = raiseFault .align s) ∨
    (i.wellFormed = true ∧ accept i action s = action (latch i s)) := by
  unfold accept Instr.wellFormed
  cases i.payloadFits <;> cases i.baseAligned <;> simp

/-- A well-formed command is latched and its acceptance action done. -/
theorem accept_of_wellFormed {i : Instr} (h : i.wellFormed = true) (action : State → State) (s : State) :
    accept i action s = action (latch i s) := by
  simp only [Instr.wellFormed, Bool.and_eq_true] at h
  simp [accept, h.1, h.2]

theorem stepPollOnce_next {s t : State} (h : stepPollOnce s = .next t) :
    ∃ m, s.mode = some m ∧ t = complete (b2w (ready m s.answer)) (busRead (s.addr Const.offLsr) s) := by
  unfold stepPollOnce at h
  split at h
  · next m hm => exact ⟨m, hm, by injection h with h; exact h.symm⟩
  · cases h

theorem stepPollTx_next {s t : State} (h : stepPollTx s = .next t) :
    ∃ m, s.mode = some m ∧
      t = goTo (if ready m s.answer then .writeThr else .pollTx) (busRead (s.addr Const.offLsr) s) := by
  unfold stepPollTx at h
  split at h
  · next m hm => exact ⟨m, hm, by injection h with h; exact h.symm⟩
  · cases h

theorem stepPollIdle_cases (s : State) :
    (idle s.answer = true ∧ stepPollIdle s = complete 0#32 (busRead (s.addr Const.offLsr) s)) ∨
    (idle s.answer = false ∧ stepPollIdle s = goTo .pollIdle (busRead (s.addr Const.offLsr) s)) := by
  unfold stepPollIdle
  cases idle s.answer <;> simp

theorem stepSetup_next {s t : State} (h : stepSetup s = .next t) :
    ∃ e, s.params.setupSeq.entries[s.sidx]? = some e ∧
      t = (if s.sidx + 1 = s.params.setupSeq.entries.length then
            complete s.cmd.base (writeEntry e s)
          else goTo .setupStep (writeEntry e s)) := by
  unfold stepSetup at h
  split at h
  · next e he => exact ⟨e, he, by injection h with h; exact h.symm⟩
  · cases h

end Machine

end Sys2Proof
end

