-- ==== Sys2Proof/Laws/PerInstr.lean ====
section
/-! SUPPORT. A fact about every command, made per constructor: the latch `cmd` loses no operand (30_encoding.md rule R83). -/

namespace Sys2Proof.Laws.LatchRoundTrip

open Sys2Proof.Machine

/-- The command read back from the latch of i is i. -/
def Statement (i : Instr) : Prop := (latchOf i).instr? = some i

theorem detect (base : Word) (data : List Byte) : Statement (.detect base data) := latchOf_instr? _
theorem ready (base : Word) (data : List Byte) : Statement (.ready base data) := latchOf_instr? _
theorem wrchar (b : Byte) (base : Word) (data : List Byte) : Statement (.wrchar b base data) := latchOf_instr? _
theorem wrbytes (len : Len) (base : Word) (data : List Byte) : Statement (.wrbytes len base data) := latchOf_instr? _
theorem flush (base : Word) (data : List Byte) : Statement (.flush base data) := latchOf_instr? _
theorem setup (base : Word) (data : List Byte) : Statement (.setup base data) := latchOf_instr? _
theorem readym (m : Mode) (base : Word) (data : List Byte) : Statement (.readym m base data) := latchOf_instr? _

end Sys2Proof.Laws.LatchRoundTrip
end

