-- ==== Sys2Proof/Laws/Step.lean ====
section
/-! SUPPORT. What a step can do: one inversion lemma for `step`, one for the acceptance of a command and one for a step of a
running command. Invariants and frames are proved from these, not by unfolding `step`. -/

namespace Sys2Proof.Machine

/-- The acceptance action of each command (60_exceptions.md rule R162). -/
def acceptAction : Instr → State → State
  | .detect .. | .ready .. | .wrchar .. => goTo .flagFe
  | .wrbytes len _ _ => fun t => if len = 0#16 then complete 0x00000000#32 t else goTo .flagFe t
  | .flush ..        => goTo .pollIdle
  | .setup ..        => goTo .setupStep
  | .readym m _ _    => fun t => goTo .pollOnce { t with mode := some m }

/-- In `IDLE` a command's meaning is its acceptance. -/
theorem exec_idle {s : State} (h : s.phase = .idle) (i : Instr) :
    exec i s = .next (accept i (acceptAction i) s) := by
  cases i <;> simp [exec, execDetect, execReady, execWrchar, execWrbytes, execFlush, execSetup, execReadym, h,
    acceptAction]

/-- All a step of a running command can do, phase by phase. -/
theorem exec_running {i : Instr} {s t : State} (hp : s.phase ≠ .idle) (h : exec i s = .next t) :
    (s.phase = .flagFe ∧ t = stepFlagFe s) ∨
    (s.phase = .flagTe ∧ i.op = 0x1#4 ∧ t = complete (b2w (s.detected == .fifo)) (readTe s)) ∨
    (s.phase = .flagTe ∧ i.op = 0x2#4 ∧ t = goTo .pollOnce (readTe s)) ∨
    (s.phase = .flagTe ∧ (i.op = 0x3#4 ∨ i.op = 0x4#4) ∧ t = goTo .pollTx (readTe s)) ∨
    (s.phase = .pollOnce ∧ (i.op = 0x2#4 ∨ i.op = 0x7#4) ∧ ∃ m, s.mode = some m ∧
      t = complete (b2w (ready m s.answer)) (busRead (s.addr Const.offLsr) s)) ∨
    (s.phase = .pollTx ∧ (i.op = 0x3#4 ∨ i.op = 0x4#4) ∧ ∃ m, s.mode = some m ∧
      t = goTo (if ready m s.answer then .writeThr else .pollTx) (busRead (s.addr Const.offLsr) s)) ∨
    (s.phase = .writeThr ∧ i.op = 0x3#4 ∧ t = complete 0#32 (writeThr s.cmd.b s)) ∨
    (s.phase = .writeThr ∧ i.op = 0x4#4 ∧ ∃ v, s.cmd.data[s.idx]? = some v ∧
      t = if s.idx + 1 = s.cmd.len.toNat then complete 0#32 (writeThr v s) else goTo .pollTx (writeThr v s)) ∨
    (s.phase = .pollIdle ∧ i.op = 0x5#4 ∧ t = stepPollIdle s) ∨
    (s.phase = .setupStep ∧ i.op = 0x6#4 ∧ stepSetup s = .next t) := by
  rcases hs : s.phase with _ | _ | _ | _ | _ | _ | _ | _ <;> first | exact absurd hs hp | skip
  all_goals
    cases i <;>
    simp only [exec, execDetect, execReady, execWrchar, execWrbytes, execFlush, execSetup, execReadym, hs,
      reduceCtorEq, Host.Outcome.next.injEq] at h <;>
    first
    | (subst h; simp [Instr.op])
    | (have := stepPollOnce_next h; simp [Instr.op, this])
    | (have := stepPollTx_next h; simp [Instr.op, this])
    | simp [Instr.op, h]
  split at h
  · next v hv => injection h with h; subst h; simp [hv]
  · cases h

/-- All a step can do. -/
theorem step_cases {s t : State} (h : step s = .next t) :
    (s.resetReq = true ∧ t = takeReset s) ∨
    (s.resetReq = false ∧ s.phase = .idle ∧ s.offers = [] ∧ t = s) ∨
    (s.resetReq = false ∧ s.phase = .idle ∧ ∃ c rest e, s.offers = c :: rest ∧ decode c = .error e ∧
      t = raiseFault .illegal (takeOffer c rest s)) ∨
    (s.resetReq = false ∧ s.phase = .idle ∧ ∃ c rest i, s.offers = c :: rest ∧ decode c = .ok i ∧
      t = accept i (acceptAction i) (takeOffer c rest s)) ∨
    (s.resetReq = false ∧ s.phase ≠ .idle ∧ ∃ i, s.cmd.instr? = some i ∧ exec i s = .next t) := by
  unfold step fetch at h
  by_cases hr : s.resetReq = true
  · simp only [hr, if_true, Host.Outcome.next.injEq] at h
    exact .inl ⟨hr, h.symm⟩
  have hr' : s.resetReq = false := by simpa using hr
  by_cases hp : s.phase = .idle
  · rcases ho : s.offers with _ | ⟨c, rest⟩
    · simp only [hr', hp, ho, if_true, Bool.false_eq_true, if_false, Host.Outcome.next.injEq] at h
      exact .inr (.inl ⟨hr', hp, rfl, h.symm⟩)
    · rcases hd : decode c with e | i
      · simp only [hr', hp, ho, hd, if_true, Bool.false_eq_true, if_false, Host.Outcome.next.injEq] at h
        exact .inr (.inr (.inl ⟨hr', hp, c, rest, e, rfl, hd, h.symm⟩))
      · simp only [hr', hp, ho, hd, if_true, Bool.false_eq_true, if_false] at h
        rw [exec_idle (by simpa using hp)] at h
        injection h with h
        exact .inr (.inr (.inr (.inl ⟨hr', hp, c, rest, i, rfl, hd, h.symm⟩)))
  · rcases hi : s.cmd.instr? with _ | i
    · simp [hr', hp, hi] at h
    · simp only [hr', hp, hi, Bool.false_eq_true, if_false] at h
      exact .inr (.inr (.inr (.inr ⟨hr', hp, i, rfl, h⟩)))

/-- Outside `IDLE`, and with no reset, a step is the latched command's. -/
theorem step_running {s : State} {i : Instr} (hr : s.resetReq = false) (hp : s.phase ≠ .idle)
    (hi : s.cmd.instr? = some i) : step s = exec i s := by
  simp [step, fetch, hr, hp, hi]

/-- In `IDLE`, and with no reset, a step is the acceptance of the oldest offer. -/
theorem step_offered {s : State} {c : Command} {rest : List Command} {i : Instr} (hr : s.resetReq = false)
    (hp : s.phase = .idle) (ho : s.offers = c :: rest) (hd : decode c = .ok i) :
    step s = .next (accept i (acceptAction i) (takeOffer c rest s)) := by
  have : step s = exec i (takeOffer c rest s) := by simp [step, fetch, hr, hp, ho, hd]
  rw [this, exec_idle (by simpa using hp)]

/-- In `IDLE`, and with no reset, a step refuses an offer whose word is illegal. -/
theorem step_illegal {s : State} {c : Command} {rest : List Command} {e : DecodeError} (hr : s.resetReq = false)
    (hp : s.phase = .idle) (ho : s.offers = c :: rest) (hd : decode c = .error e) :
    step s = .next (raiseFault .illegal (takeOffer c rest s)) := by
  simp [step, fetch, hr, hp, ho, hd]

/-- A running command's meaning answers no next state in a phase that is none of its own. -/
theorem phase_of_exec {i : Instr} {s t : State} (hp : s.phase ≠ .idle) (h : exec i s = .next t) :
    s.phase ∈ i.phases := by
  rcases hs : s.phase with _ | _ | _ | _ | _ | _ | _ | _ <;> first | exact absurd hs hp | skip
  all_goals
    cases i <;>
    simp [exec, execDetect, execReady, execWrchar, execWrbytes, execFlush, execSetup, execReadym, hs,
      Instr.phases] at h ⊢

end Sys2Proof.Machine
end

