-- ==== Sys2Proof/Laws/Run.lean ====
section
/-! SUPPORT. Runs of many steps, and the events of a poll. -/

namespace Sys2Proof.Machine

theorem run_succ {s t : State} (h : step s = .next t) (n : Nat) : run (n + 1) s = run n t := by
  simp [run, h]

theorem run_add {n : Nat} {s t : State} (h : run n s = .next t) (m : Nat) : run (n + m) s = run m t := by
  induction n generalizing s with
  | zero => simp only [run, Host.Outcome.next.injEq] at h; simp [h]
  | succ n ih =>
    rw [Nat.succ_add]
    simp only [run] at h ⊢
    split at h
    · next u hu => exact ih h
    · cases h
    · cases h

/-- A command whose latch is known runs, outside `IDLE`. -/
theorem step_latched {s : State} {i : Instr} (hr : s.resetReq = false) (hp : s.phase ≠ .idle)
    (hc : s.cmd = latchOf i) : step s = exec i s :=
  step_running hr hp (by rw [hc, latchOf_instr?])

/-- Reads that are answered alike have the same events. -/
theorem readTrace_congr {f g : Nat → Word} {off : Nat} (h : ∀ k, f k = g (off + k)) (a : Word) (n : Nat) :
    readTrace a f 0 n = readTrace a g off n := by
  simp [readTrace, h]

/-- What a transmit of one byte waits for is `EventuallyReady` (R37). -/
theorem readyAnswers_one (m : Mode) (s : State) : ReadyAnswers m s 1 ↔ EventuallyReady m s := by
  constructor
  · rintro ⟨ks, -, hl, hk⟩
    obtain ⟨k, rfl⟩ := List.length_eq_one_iff.1 hl
    exact ⟨k, hk k (by simp)⟩
  · rintro ⟨k, hk⟩
    exact ⟨[k], by simp, rfl, by simpa using hk⟩

end Sys2Proof.Machine
end

