-- ==== Sys2Proof/Tests/Slice0.lean ====
section
/-! SUPPORT. Tests with expected results from spec/95_test_vectors.md and the encodings of spec/30_encoding.md, the smoke tests
of the well-formedness checks, and for each obligation that has hypotheses a witness that meets them all. -/

namespace Sys2Proof.Tests

open Machine

/-! ### Small states -/

/-- The example base of spec/95_test_vectors.md. -/
def exBase : Word := 0xFFC02000#32

/-- A well-formed SETUP_SEQ of three entries, shaped like the example of 93_implementation_defined.md I5. -/
def exSeq : SetupSeq :=
  ⟨[⟨[.format, .baud], 0x0C#32, .word 0x83#32⟩, ⟨[.baud], 0x00#32, .byte 0x1A#8⟩,
    ⟨[.fifoEn, .rxTrig, .txTrig, .enable], 0x08#32, .word 0xA1#32⟩], by decide⟩

/-- An idle block with the masks of the spec, some offers and some coming answers. -/
def waiting (offers : List Command) (answers : List Word) : State :=
  { State.reset with params := ⟨0x1#32, 0x1#32, exSeq⟩, offers := offers, answers := answers }

/-- A block that runs i, in phase p. -/
def running (p : Phase) (i : Instr) (m : Option Mode) (answers : List Word) : State :=
  { waiting [] answers with phase := p, cmd := latchOf i, mode := m, status := ⟨true, 0#3⟩ }

/-- The next state, where there is one. -/
def nextOf : Out → Option State
  | .next s => some s
  | .fault _ | .refused _ => none

/-- What a test looks at in the state after: the phase, STATUS, RESULT and the events. -/
def seen (o : Out) : Option (Phase × Word × Word × List Event) :=
  (nextOf o).map fun s => (s.phase, readStatus s, readResult s, s.trace)

/-! ### Well-formedness: each check refuses an ill-formed term (R85, R57, R143) -/

theorem test_wellFormed_accepts : (Instr.wrbytes 2#16 exBase [0x41#8, 0x42#8]).wellFormed = true := by decide
theorem test_wellFormed_short_data : (Instr.wrbytes 2#16 exBase [0x41#8]).wellFormed = false := by decide
theorem test_wellFormed_long_data : (Instr.wrbytes 1#16 exBase [0x41#8, 0x42#8]).wellFormed = false := by decide
theorem test_wellFormed_stray_data : (Instr.flush exBase [0x00#8]).wellFormed = false := by decide
theorem test_wellFormed_misaligned : (Instr.detect 0xFFC02001#32 []).wellFormed = false := by decide

theorem test_setupSeq_accepts : (SetupSeq.ofList? exSeq.entries).isSome = true := by decide
theorem test_setupSeq_empty : SetupSeq.ofList? [] = none := by decide
theorem test_setupSeq_no_trigger :
    SetupSeq.ofList? [⟨[.format, .baud, .fifoEn, .rxTrig, .enable], 0x08#32, .byte 0#8⟩] = none := by decide
theorem test_setupSeq_order :
    SetupSeq.ofList? [⟨[.baud], 0x04#32, .byte 0#8⟩, ⟨Purpose.all, 0x08#32, .byte 0#8⟩] = none := by decide
theorem test_setupSeq_no_purpose :
    SetupSeq.ofList? [⟨Purpose.all, 0x08#32, .byte 0#8⟩, ⟨[], 0x04#32, .byte 0#8⟩] = none := by decide
theorem test_setupSeq_read_only_target :
    [0x14#32, 0x98#32, 0xA0#32].map (fun off => SetupSeq.ofList? [⟨Purpose.all, off, .byte 0#8⟩]) = [none, none, none] := by
  decide
theorem test_setupSeq_word_at_thr : SetupSeq.ofList? [⟨Purpose.all, 0x00#32, .word 0#32⟩] = none := by decide
theorem test_setupSeq_misaligned_word : SetupSeq.ofList? [⟨Purpose.all, 0x0A#32, .word 0#32⟩] = none := by decide

/-! ### Decoding: one word per command, bit by bit from R81 (L B 000 M OP), and the words of 95_test_vectors.md 2.1 -/

theorem test_decode_detect :
    decode ⟨0b0000000000000000_00000000_000_0_0001#32, exBase, []⟩ = .ok (.detect exBase []) := by rfl
theorem test_decode_ready :
    decode ⟨0b0000000000000000_00000000_000_0_0010#32, exBase, []⟩ = .ok (.ready exBase []) := by rfl
theorem test_decode_wrchar :
    decode ⟨0b0000000000000000_01001000_000_0_0011#32, exBase, []⟩ = .ok (.wrchar 0x48#8 exBase []) := by rfl
theorem test_decode_wrbytes :
    decode ⟨0b0000000000000010_00000000_000_0_0100#32, exBase, [0x41#8, 0x42#8]⟩
      = .ok (.wrbytes 2#16 exBase [0x41#8, 0x42#8]) := by rfl
theorem test_decode_flush :
    decode ⟨0b0000000000000000_00000000_000_0_0101#32, exBase, []⟩ = .ok (.flush exBase []) := by rfl
theorem test_decode_setup :
    decode ⟨0b0000000000000000_00000000_000_0_0110#32, exBase, []⟩ = .ok (.setup exBase []) := by rfl
theorem test_decode_readym :
    decode ⟨0b0000000000000000_00000000_000_1_0111#32, exBase, []⟩ = .ok (.readym .fifo exBase []) := by rfl
theorem test_decode_reserved_opcodes :
    [0x0#32, 0x8#32, 0xF#32, 0xFFFFFFFF#32].map (fun cw => rowOf cw) = [none, none, none, none] := by decide
theorem test_decode_must_be_zero_bits :
    [0x11#32, 0x21#32, 0x101#32, 0x80000001#32, 0x13#32, 0x14803#32, 0x104#32, 0x14#32, 0x27#32, 0x107#32].all
      (fun cw => (rowOf cw).isNone) = true := by decide
/-- The assembler forms of R89 and the words of R92. -/
theorem test_assembler :
    encode (Asm.wrtext exBase ['o', 'k']) = ⟨0x00020004#32, exBase, [0x6F#8, 0x6B#8]⟩ ∧
    encode (Asm.readym exBase .fifo) = ⟨0x00000017#32, exBase, []⟩ ∧
    encode (Asm.nopwrite exBase) = ⟨0x00000004#32, exBase, []⟩ := by decide

/-! ### The host's two questions, on words of the table (BASE and DATA bits 0) -/

theorem test_tableWord_decodes : decodeTableWord 32 0x00034804 = none ∧
    decodeTableWord 32 0x00030004 = some (.wrbytes 3#16 0#32 [0#8, 0#8, 0#8]) := by decide
theorem test_fetchWord_runs :
    (nextOf (step (State.reset.withFetchWord 32 0x00030004))).map (fun s => (s.phase, s.cmd.op, s.cmd.len))
      = some (.flagFe, 4#4, 3#16) := by decide

/-! ### Single steps, expected results from 95_test_vectors.md -/

/-- F-9: ILLEGAL before LENGTH and ALIGN. -/
theorem test_fault_illegal_first : seen (step (waiting [⟨0x8#32, 0xFFC02003#32, [0#8]⟩] [])) =
    some (.idle, 0x2#32, 0#32, [.accept ⟨0x8#32, 0xFFC02003#32, [0#8]⟩, .resp (.fault .illegal) 0#32]) := by decide
/-- F-10: LENGTH before ALIGN. -/
theorem test_fault_length_second : seen (step (waiting [⟨0x1#32, 0xFFC02003#32, [0#8]⟩] [])) =
    some (.idle, 0x4#32, 0#32, [.accept ⟨0x1#32, 0xFFC02003#32, [0#8]⟩, .resp (.fault .length) 0#32]) := by decide
/-- F-11: a zero-length write is still checked for alignment. -/
theorem test_fault_align_zero_length : seen (step (waiting [⟨0x4#32, 0xFFC02001#32, []⟩] [])) =
    some (.idle, 0x6#32, 0#32, [.accept ⟨0x4#32, 0xFFC02001#32, []⟩, .resp (.fault .align) 0#32]) := by decide
/-- The first fault is kept. -/
theorem test_fault_sticky :
    (nextOf (step { waiting [⟨0x20004#32, exBase, [0x41#8]⟩] [] with status := ⟨false, 1#3⟩ })).map readStatus
      = some 0x2#32 := by decide

/-- L1-2, FE = 1, TE = 1. -/
theorem test_detect_fifo : seen (step { running .flagTe (.detect exBase []) none [1#32] with fe := true }) =
    some (.idle, 0#32, 1#32, [.rd 0xFFC020A0#32 1#32, .resp .ok 1#32]) := by decide
/-- 2.3: TE reads 0xFFFFFFFE, so its flag is 0. -/
theorem test_detect_legacy : seen (step { running .flagTe (.detect exBase []) none [0xFFFFFFFE#32] with fe := true }) =
    some (.idle, 0#32, 0#32, [.rd 0xFFC020A0#32 0xFFFFFFFE#32, .resp .ok 0#32]) := by decide
/-- 2.3, READY: FIFO mode and LSR 0x60, not ready. -/
theorem test_ready_fifo : seen (step (running .pollOnce (.ready exBase []) (some .fifo) [0x60#32])) =
    some (.idle, 0#32, 0#32, [.rd 0xFFC02014#32 0x60#32, .resp .ok 0#32]) := by decide
/-- L1-3: bit 5 = 1 is ready in legacy mode. -/
theorem test_readym_legacy : seen (step (running .pollOnce (.readym .legacy exBase []) (some .legacy) [0x20#32])) =
    some (.idle, 0#32, 1#32, [.rd 0xFFC02014#32 0x20#32, .resp .ok 1#32]) := by decide
/-- T-2: legacy mode, 0x40 is not ready. -/
theorem test_wrchar_polls : seen (step (running .pollTx (.wrchar 0#8 exBase []) (some .legacy) [0x40#32])) =
    some (.pollTx, 1#32, 0#32, [.rd 0xFFC02014#32 0x40#32]) := by decide
/-- T-3: the byte 0xFF is written unchanged. -/
theorem test_wrchar_writes : seen (step (running .writeThr (.wrchar 0xFF#8 exBase []) (some .legacy) [])) =
    some (.idle, 0#32, 0#32, [.wr 0xFFC02000#32 (.byte 0xFF#8), .resp .ok 0#32]) := by decide
/-- T-5: the second byte of three; the command goes on. -/
theorem test_wrbytes_next_byte :
    seen (step { running .writeThr (.wrbytes 3#16 exBase [0x00#8, 0xFF#8, 0x00#8]) (some .fifo) [] with idx := 1 }) =
    some (.pollTx, 1#32, 0#32, [.wr 0xFFC02000#32 (.byte 0xFF#8)]) := by decide
/-- T-7: an empty write completes at acceptance. -/
theorem test_wrbytes_empty : seen (step (waiting [⟨0x4#32, exBase, []⟩] [])) =
    some (.idle, 0#32, 0#32, [.accept ⟨0x4#32, exBase, []⟩, .resp .ok 0#32]) := by decide
/-- D-3: every bit but 6 does not end the wait. -/
theorem test_flush_waits : seen (step (running .pollIdle (.flush exBase []) none [0xFFFFFFBF#32])) =
    some (.pollIdle, 1#32, 0#32, [.rd 0xFFC02014#32 0xFFFFFFBF#32]) := by decide
/-- D-1: bit 6 ends it. -/
theorem test_flush_ends : seen (step (running .pollIdle (.flush exBase []) none [0x40#32])) =
    some (.idle, 0#32, 0#32, [.rd 0xFFC02014#32 0x40#32, .resp .ok 0#32]) := by decide
/-- S-2: the last write, and the handle 0x10000000. -/
theorem test_setup_ends : seen (step { running .setupStep (.setup 0x10000000#32 []) none [] with sidx := 2 }) =
    some (.idle, 0#32, 0x10000000#32, [.wr 0x10000008#32 (.word 0xA1#32), .resp .ok 0x10000000#32]) := by decide
/-- 2.6: BASE 0xFFFFFF80, the address of FE wraps. -/
theorem test_address_wraps : seen (step (running .flagFe (.detect 0xFFFFFF80#32 []) none [1#32])) =
    some (.flagTe, 1#32, 0#32, [.rd 0x00000018#32 1#32]) := by decide
/-- V-RESET: reset in a poll leaves the trace as it is and clears STATUS. -/
theorem test_reset_in_poll :
    seen (step { running .pollTx (.wrchar 0x48#8 exBase []) (some .fifo) [0x20#32] with resetReq := true }) =
    some (.idle, 0#32, 0#32, []) := by decide
/-- R53: the bytes of a 32-bit write lie little-endian. -/
theorem test_word_write_little_endian :
    [0, 1, 2, 3, 4].map (fun k => lastWritten [.wr 0x1000#32 (.word 0x44332211#32)] (0x1000#32 + BitVec.ofNat 32 k))
      = [some 0x11#8, some 0x22#8, some 0x33#8, some 0x44#8, none] := by decide

/-! ### Witnesses: for each obligation with hypotheses, a state and operands that meet them all -/

/-- FLUSH, READY and SETUP as offered, and an illegal word. -/
def cFlush : Command := ⟨0x00000005#32, exBase, []⟩
def cDetect : Command := ⟨0x00000001#32, exBase, []⟩
def cReady : Command := ⟨0x00000002#32, exBase, []⟩
def cReadym : Command := ⟨0x00000017#32, exBase, []⟩
def cSetup : Command := ⟨0x00000006#32, exBase, []⟩
def cWrchar : Command := ⟨0x00004803#32, exBase, []⟩
def cIllegal : Command := ⟨0x00000008#32, exBase, []⟩

/-- WRBYTES of two bytes, as it polls for its second. -/
def iBuffer : Instr := .wrbytes 2#16 exBase [0x41#8, 0x42#8]
def midBuffer : State := { running .pollTx iBuffer (some .fifo) [0x20#32, 0x00#32] with idx := 1 }

/-- The state of a WRBYTES in mid-command meets the invariant; a poll then keeps BUSY and all its latches in use. -/
theorem midBuffer_inv : StateInv midBuffer where
  busy := by decide
  fault := by decide
  mode := by decide
  fe := by decide
  running := fun _ => ⟨iBuffer, by decide, by decide, by decide⟩
  idx := by decide
  idxBound := by decide
  sidx := by decide
  sidxBound := by decide

/-- So does a SETUP at its last entry, whose index is one below the bound. -/
theorem lastEntry_inv : StateInv { running .setupStep (.setup exBase []) none [] with sidx := 2 } where
  busy := by decide
  fault := by decide
  mode := by decide
  fe := by decide
  running := fun _ => ⟨.setup exBase [], by decide, by decide, by decide⟩
  idx := by decide
  idxBound := by decide
  sidx := by decide
  sidxBound := by decide

/-- And a FLUSH that polls. -/
theorem flush_inv (answers : List Word) : StateInv (running .pollIdle (.flush exBase []) none answers) where
  busy := rfl
  fault := Nat.zero_le _
  mode := rfl
  fe := fun h => nomatch h
  running := fun _ => ⟨.flush exBase [], rfl, by decide, List.mem_singleton.2 rfl⟩
  idx := fun _ => ⟨fun h => (nomatch h), fun _ => rfl⟩
  idxBound := Nat.zero_le _
  sidx := fun h => nomatch h
  sidxBound := Nat.zero_le _

theorem witness_EncodeOfDecode : decode cWrchar = .ok (.wrchar 0x48#8 exBase []) := by rfl

/-- Each kind of illegal word: OP 0, 8 and 15, the reserved bits 5 and 7, M, B and L where a command has none; and an
illegal word offered to an idle block. -/
theorem witness_IllegalWordsAreRefused :
    [0x0#32, 0x8#32, 0xF#32, 0x21#32, 0x81#32, 0x13#32, 0x101#32, 0x8001#32, 0x10001#32, 0x80000003#32].all
      (fun cw => (rowOf cw).isNone) = true ∧
    decode cIllegal = .error (.reservedOpcode 8#4) ∧ (waiting [cIllegal] []).resetReq = false ∧
    (waiting [cIllegal] []).phase = .idle ∧ (waiting [cIllegal] []).offers = cIllegal :: [] := by
  refine ⟨by decide, by rfl, rfl, rfl, rfl⟩

theorem witness_OpcodeRowsNeverOverlap :
    (⟨.readym, 0x7#32, 0xFFFFFFEF#32⟩ : Row) ∈ opcodeTable ∧ 0x17#32 &&& 0xFFFFFFEF#32 = 0x7#32 := by decide

theorem witness_StepRunsTheOfferedCommand :
    (waiting [cFlush] []).resetReq = false ∧ (waiting [cFlush] []).phase = .idle ∧
    (waiting [cFlush] []).offers = cFlush :: [] ∧ decode cFlush = .ok (.flush exBase []) := ⟨rfl, rfl, rfl, by rfl⟩

theorem witness_StepRunsTheLatchedCommand :
    midBuffer.resetReq = false ∧ midBuffer.phase ≠ .idle ∧
    decode ⟨0x00020004#32, exBase, [0x41#8, 0x42#8]⟩ = .ok iBuffer ∧
    midBuffer.cmd = ⟨4#4, exBase, false, 0#8, 2#16, [0x41#8, 0x42#8]⟩ := ⟨rfl, by decide, by rfl, rfl⟩

/-- One offer for each verdict: illegal, a length off by one either way and a payload where none belongs, a base off by
one, and one accepted command for each first phase. -/
theorem witness_AcceptanceFollowsItsRule :
    (∀ c : Command, (waiting [c] []).resetReq = false ∧ (waiting [c] []).phase = .idle ∧
      (waiting [c] []).offers = c :: []) ∧
    decode cIllegal = .error (.reservedOpcode 8#4) ∧
    decode ⟨0x00020004#32, exBase, [0x41#8]⟩ = .ok (.wrbytes 2#16 exBase [0x41#8]) ∧
    decode ⟨0x00010004#32, exBase, [0x41#8, 0x42#8]⟩ = .ok (.wrbytes 1#16 exBase [0x41#8, 0x42#8]) ∧
    decode ⟨0x00000005#32, exBase, [0#8]⟩ = .ok (.flush exBase [0#8]) ∧
    decode ⟨0x00000001#32, 0xFFC02001#32, []⟩ = .ok (.detect 0xFFC02001#32 []) ∧
    (0xFFC02001#32 : Word).extractLsb' 0 2 ≠ 0#2 ∧ exBase.extractLsb' 0 2 = 0#2 ∧
    decode cDetect = .ok (.detect exBase []) ∧
    decode ⟨0x00000004#32, exBase, []⟩ = .ok (.wrbytes 0#16 exBase []) ∧
    decode cFlush = .ok (.flush exBase []) ∧ decode cSetup = .ok (.setup exBase []) ∧
    decode cReadym = .ok (.readym .fifo exBase []) := by
  refine ⟨fun _ => ⟨rfl, rfl, rfl⟩, by rfl, by rfl, by rfl, by rfl, by rfl, by decide, by decide, by rfl, by rfl, by rfl,
    by rfl, by rfl⟩

/-- Two states that differ in FAULT, offered one illegal command. -/
theorem witness_RefusalDependsOnTheCommandAlone :
    ∃ s s' : State, s ≠ s' ∧ s.resetReq = false ∧ s.phase = .idle ∧ s.offers = cIllegal :: [] ∧
      s'.resetReq = false ∧ s'.phase = .idle ∧ s'.offers = cIllegal :: [cFlush] ∧
      ∃ t, step s = .next t ∧ t.trace = s.trace ++ [.accept cIllegal, .resp (.fault .illegal) 0#32] :=
  ⟨waiting [cIllegal] [], { waiting [cIllegal, cFlush] [] with status := ⟨false, 2#3⟩ },
    by decide, rfl, rfl, rfl, rfl, rfl, rfl, _, rfl, rfl⟩

theorem witness_AcceptedCommandsStart :
    (waiting [] []).phase = .idle ∧ exBase.extractLsb' 0 2 = 0#2 ∧
    [0x41#8].length = (1#16 : Len).toNat ∧ [0x41#8] ≠ [] := by decide

/-- A zero-length write that completes, one with a byte of DATA, and one at the first misaligned base. -/
theorem witness_ZeroLengthWriteCompletesAtAcceptance :
    (∀ c : Command, (waiting [c] []).resetReq = false ∧ (waiting [c] []).phase = .idle ∧
      (waiting [c] []).offers = c :: []) ∧
    exBase.extractLsb' 0 2 = 0#2 ∧ [0x41#8] ≠ [] ∧ (0xFFC02001#32 : Word).extractLsb' 0 2 ≠ 0#2 :=
  ⟨fun _ => ⟨rfl, rfl, rfl⟩, by decide, by decide, by decide⟩

theorem witness_ModeDetectionReadsFeThenTe :
    (running .flagFe (.ready exBase []) none [1#32, 1#32]).phase = .flagFe ∧
    { running .flagTe (.ready exBase []) none [1#32] with fe := true }.phase = .flagTe := by decide

theorem witness_ReadyCheckReadsLsrOnce :
    (running .pollOnce (.ready exBase []) (some .legacy) [0x20#32]).phase = .pollOnce ∧
    (running .pollOnce (.ready exBase []) (some .legacy) [0x20#32]).mode = some .legacy := by decide

theorem witness_TransmitPollReadsLsrUntilReady :
    midBuffer.phase = .pollTx ∧ midBuffer.mode = some .fifo := by decide

/-- The first byte of two, and the last. -/
theorem witness_ByteWriteStoresOneByte :
    (running .writeThr iBuffer (some .fifo) []).phase = .writeThr ∧
    (running .writeThr iBuffer (some .fifo) []).cmd.data[0]? = some 0x41#8 ∧
    (running .writeThr iBuffer (some .fifo) []).idx + 1 ≠ (running .writeThr iBuffer (some .fifo) []).cmd.len.toNat ∧
    { running .writeThr iBuffer (some .fifo) [] with idx := 1 }.cmd.data[1]? = some 0x42#8 ∧
    { running .writeThr iBuffer (some .fifo) [] with idx := 1 }.idx + 1 =
      (running .writeThr iBuffer (some .fifo) []).cmd.len.toNat := by decide

theorem witness_IdlePollReadsLsrUntilIdle :
    (running .pollIdle (.flush exBase []) none [0x40#32]).phase = .pollIdle ∧
    ((running .pollIdle (.flush exBase []) none [0x40#32]).answerAt 0).getLsbD 6 = true ∧
    ((running .pollIdle (.flush exBase []) none [0xFFFFFFBF#32]).answerAt 0).getLsbD 6 = false := by decide

/-- The first entry of three, and the last. -/
theorem witness_SetupStepWritesOneEntry :
    (running .setupStep (.setup exBase []) none []).phase = .setupStep ∧
    (running .setupStep (.setup exBase []) none []).params.setupSeq.entries[0]? =
      some ⟨[.format, .baud], 0x0C#32, .word 0x83#32⟩ ∧ 0 + 1 ≠ exSeq.entries.length ∧
    { running .setupStep (.setup exBase []) none [] with sidx := 2 }.params.setupSeq.entries[2]? =
      some ⟨[.fifoEn, .rxTrig, .txTrig, .enable], 0x08#32, .word 0xA1#32⟩ ∧ 2 + 1 = exSeq.entries.length := by decide

/-- A foreign phase; a poll with no mode; both indexes exactly at their ends. -/
theorem witness_CommandsStopOutsideTheirPhases :
    ((running .pollTx (.flush exBase []) none []).phase ≠ .idle ∧
      (running .pollTx (.flush exBase []) none []).phase ∉ (Instr.flush exBase []).phases) ∧
    ((running .pollTx iBuffer none []).phase ∈ iBuffer.phases ∧ (running .pollTx iBuffer none []).phase = .pollTx ∧
      (running .pollTx iBuffer none []).mode = none) ∧
    ({ running .writeThr iBuffer (some .fifo) [] with idx := 2 }.phase = .writeThr ∧ iBuffer.op = 4#4 ∧
      { running .writeThr iBuffer (some .fifo) [] with idx := 2 }.cmd.data.length ≤ 2) ∧
    ({ running .setupStep (.setup exBase []) none [] with sidx := 3 }.phase = .setupStep ∧
      (Instr.setup exBase []).op = 6#4 ∧ exSeq.entries.length ≤ 3) := by decide

/-- A FLUSH that ends on an idle answer. -/
theorem witness_CompletionHasItsEffect :
    ∃ s t es, exec (.flush exBase []) s = .next t ∧ t.trace = s.trace ++ es ++ [.resp .ok 0#32] :=
  ⟨running .pollIdle (.flush exBase []) none [0x40#32], _, [.rd 0xFFC02014#32 0x40#32], rfl, by decide⟩

/-- A step that ends a command, one that refuses, and one that ends none. -/
theorem witness_OneResponseEndsEachCommand :
    (∃ t, step (running .pollIdle (.flush exBase []) none [0x40#32]) = .next t ∧ t.phase = .idle) ∧
    (∃ t, step (waiting [cIllegal] []) = .next t ∧ t.phase = .idle) ∧
    ∃ t, step midBuffer = .next t ∧ t.phase = .pollTx :=
  ⟨⟨_, rfl, by decide⟩, ⟨_, rfl, by decide⟩, ⟨_, rfl, by decide⟩⟩

/-- A step from a state that meets the invariant, in the middle of a command: the hypothesis of every statement about the
steps of the block. -/
theorem witness_StepKeepsTheInvariant : ∃ s t, StateInv s ∧ s.resetReq = false ∧ step s = .next t ∧ t ≠ s :=
  ⟨midBuffer, _, midBuffer_inv, rfl, rfl, by decide⟩

/-- A normal step, a reset that clears a fault, and a refusal that sets one. -/
theorem witness_StatusFollowsItsRule :
    StateInv midBuffer ∧
    (∃ t, step { waiting [] [] with status := ⟨false, 1#3⟩, resetReq := true } = .next t ∧ t.status.fault = 0#3) ∧
    ∃ t, step (waiting [cIllegal] []) = .next t ∧ t.status.fault = 1#3 :=
  ⟨midBuffer_inv, ⟨_, rfl, rfl⟩, ⟨_, rfl, rfl⟩⟩

/-- A step that leaves RESULT, one that completes, one that refuses, and a reset. -/
theorem witness_ResultIsWrittenOnlyByResponses :
    (∃ t, step midBuffer = .next t ∧ t.result = midBuffer.result) ∧
    (∃ t, step { running .setupStep (.setup exBase []) none [] with sidx := 2 } = .next t ∧ t.result = exBase) ∧
    (∃ t, step { waiting [cIllegal] [] with result := 1#32 } = .next t ∧ t.result = 0#32) ∧
    ∃ t, step { waiting [] [] with result := 1#32, resetReq := true } = .next t ∧ t.result = 0#32 :=
  ⟨⟨_, rfl, rfl⟩, ⟨_, rfl, rfl⟩, ⟨_, rfl, rfl⟩, ⟨_, rfl, rfl⟩⟩

/-- A running command, and an offer that is latched. -/
theorem witness_LatchedCommandIsConstant :
    (midBuffer.resetReq = false ∧ midBuffer.phase ≠ .idle ∧ ∃ t, step midBuffer = .next t) ∧
    ((waiting [cFlush] []).resetReq = false ∧ (waiting [cFlush] []).phase = .idle ∧
      ∃ t, step (waiting [cFlush] []) = .next t ∧ t.cmd.op = 5#4) :=
  ⟨⟨rfl, by decide, _, rfl⟩, ⟨rfl, rfl, _, rfl, rfl⟩⟩

/-- The latch kept, cleared, written by `FLAG_TE`, and written by the acceptance of READYM. -/
theorem witness_ModeLatchHasItsWriters :
    (∃ t, step midBuffer = .next t ∧ t.mode = some .fifo) ∧
    (∃ t, step (running .pollOnce (.readym .legacy exBase []) (some .legacy) [0#32]) = .next t ∧ t.mode = none) ∧
    (∃ t, step { running .flagTe iBuffer none [1#32] with fe := true } = .next t ∧ t.mode = some .fifo) ∧
    ∃ t, step (waiting [cReadym] []) = .next t ∧ t.mode = some .fifo :=
  ⟨⟨_, rfl, rfl⟩, ⟨_, rfl, rfl⟩, ⟨_, rfl, rfl⟩, ⟨_, rfl, rfl⟩⟩

theorem witness_WrbytesLatchesItsModeOnce :
    (∃ t, exec iBuffer { running .flagTe iBuffer none [1#32] with fe := true } = .next t) ∧
    (∃ t, exec iBuffer midBuffer = .next t) ∧
    ∃ t, exec iBuffer { running .writeThr iBuffer (some .fifo) [] with idx := 1 } = .next t :=
  ⟨⟨_, rfl⟩, ⟨_, rfl⟩, ⟨_, rfl⟩⟩

/-- Each latch written: `fe`, `idx` and `sidx` set, and `idx` cleared at acceptance. -/
theorem witness_LatchesHaveTheirWriters :
    (∃ t, step (running .flagFe iBuffer none [1#32]) = .next t ∧ t.fe = true) ∧
    (∃ t, step { running .writeThr iBuffer (some .fifo) [] with idx := 1 } = .next t ∧ t.idx = 2) ∧
    (∃ t, step { running .setupStep (.setup exBase []) none [] with sidx := 2 } = .next t ∧ t.sidx = 3) ∧
    ∃ t, step { waiting [cFlush] [] with idx := 2, sidx := 3 } = .next t ∧ t.idx = 0 ∧ t.sidx = 0 :=
  ⟨⟨_, rfl, rfl⟩, ⟨_, rfl, rfl⟩, ⟨_, rfl, rfl⟩, ⟨_, rfl, rfl, rfl⟩⟩

theorem witness_ResetIsTakenFirst : { midBuffer with resetReq := true }.resetReq = true := by decide

theorem witness_IdleBlockStaysIdle : (waiting [] []).Finished := ⟨rfl, rfl, rfl⟩

/-- A busy block with an offer, and an idle one with two. -/
theorem witness_OffersWaitWhileBusy :
    ({ midBuffer with offers := [cFlush] }.resetReq = false ∧ { midBuffer with offers := [cFlush] }.phase ≠ .idle ∧
      ∃ t, step { midBuffer with offers := [cFlush] } = .next t) ∧
    (waiting [cFlush, cSetup] []).offers = cFlush :: [cSetup] ∧
      ∃ t, step (waiting [cFlush, cSetup] []) = .next t ∧ t.offers = [cSetup] :=
  ⟨⟨rfl, by decide, _, rfl⟩, rfl, _, rfl, rfl⟩

/-- A read, a byte written to THR and a setup write. -/
theorem witness_EveryTransactionIsOneOfTheMap :
    (∃ t, exec iBuffer midBuffer = .next t) ∧
    (∃ t, exec iBuffer { running .writeThr iBuffer (some .fifo) [] with idx := 1 } = .next t) ∧
    ∃ t, exec (.setup exBase []) (running .setupStep (.setup exBase []) none []) = .next t :=
  ⟨⟨_, rfl⟩, ⟨_, rfl⟩, ⟨_, rfl⟩⟩

/-- A step with one transaction, and two with none. -/
theorem witness_AtMostOneTransactionPerStep :
    (∃ t, step midBuffer = .next t) ∧
    ((waiting [cFlush] []).phase = .idle ∧ ∃ t, step (waiting [cFlush] []) = .next t) ∧
    ∃ t, step { midBuffer with resetReq := true } = .next t :=
  ⟨⟨_, rfl⟩, ⟨rfl, _, rfl⟩, ⟨_, rfl⟩⟩

/-- A read answered from the list, one answered by a free value, and a step that reads nothing. -/
theorem witness_EachReadTakesTheNextAnswer :
    (∃ t, step midBuffer = .next t ∧ t.answerAt 0 = 0#32) ∧
    (∃ t, step { midBuffer with answers := [] } = .next t ∧ t.trace = [.rd 0xFFC02014#32 (Config.draw 0)]) ∧
    ∃ t, step { running .writeThr iBuffer (some .fifo) [0x20#32] with idx := 1 } = .next t ∧ t.answerAt 0 = 0x20#32 :=
  ⟨⟨_, rfl, rfl⟩, ⟨_, rfl, rfl⟩, ⟨_, rfl, rfl⟩⟩

theorem witness_ReadyPolarityDependsOnTheMode : (0x20#32 : Word).getLsbD 5 = (0xFFFFFFFF#32 : Word).getLsbD 5 := by decide
theorem witness_IdleDependsOnBitSixAlone : (0x40#32 : Word).getLsbD 6 = (0x60#32 : Word).getLsbD 6 := by decide

theorem witness_ReadingCommandsStoreNothing :
    ∃ t, exec (.flush exBase []) (running .pollIdle (.flush exBase []) none [0x40#32]) = .next t := ⟨_, rfl⟩

/-- WRBYTES in a poll, and in `WRITE_THR`; an address next to THR. -/
theorem witness_TransmitStoresOnlyAtThr :
    (midBuffer.phase ≠ .writeThr ∧ ∃ t, exec iBuffer midBuffer = .next t) ∧
    ((running .writeThr iBuffer (some .fifo) []).phase = .writeThr ∧
      0xFFC02001#32 ≠ (running .writeThr iBuffer (some .fifo) []).addr Const.offThr ∧
      ∃ t, exec iBuffer (running .writeThr iBuffer (some .fifo) []) = .next t) :=
  ⟨⟨by decide, _, rfl⟩, ⟨rfl, by decide, _, rfl⟩⟩

/-- A 4-byte entry with the address just past its bytes, a byte entry, and the acceptance step. -/
theorem witness_SetupStoresOnlyItsEntry :
    (∃ t, exec (.setup exBase []) (running .setupStep (.setup exBase []) none []) = .next t) ∧
    exSeq.entries[0]? = some ⟨[.format, .baud], 0x0C#32, .word 0x83#32⟩ ∧
    (WriteData.word 0x83#32).size ≤ (0xFFC02010#32 - (running .setupStep (.setup exBase []) none []).addr 0x0C#32).toNat ∧
    exSeq.entries[1]? = some ⟨[.baud], 0x00#32, .byte 0x1A#8⟩ ∧
    ((waiting [] []).phase ≠ .setupStep ∧ ∃ t, exec (.setup exBase []) (waiting [] []) = .next t) :=
  ⟨⟨_, rfl⟩, by decide, by decide, by decide, by decide, _, rfl⟩

/-- The states of running commands, and one that waits: for the statements that assume the invariant alone. -/
theorem witness_NoStepStops : StateInv midBuffer ∧ StateInv (running .pollIdle (.flush exBase []) none [0x40#32]) ∧
    StateInv { running .setupStep (.setup exBase []) none [] with sidx := 2 } :=
  ⟨midBuffer_inv, flush_inv _, lastEntry_inv⟩

theorem witness_PortsKeepTheInvariant : StateInv midBuffer := midBuffer_inv

/-- What a statement about a whole command assumes of the state in which the command waits. -/
def Offered (c : Command) (s : State) : Prop :=
  s.resetReq = false ∧ s.phase = .idle ∧ c.base.extractLsb' 0 2 = 0#2 ∧ s.offers = c :: []

theorem witness_DetectReportsTheMode : Offered cDetect (waiting [cDetect] [1#32, 0#32]) := ⟨rfl, rfl, by decide, rfl⟩
theorem witness_ReadyReportsTheLiveMode : Offered cReady (waiting [cReady] [1#32, 1#32, 0x60#32]) :=
  ⟨rfl, rfl, by decide, rfl⟩
theorem witness_ReadymReportsTheGivenMode :
    Offered ⟨if true then 0x00000017#32 else 0x00000007#32, exBase, []⟩ (waiting [cReadym] [0x20#32]) :=
  ⟨rfl, rfl, by decide, rfl⟩

/-- R122's example: FIFO mode, LSR reads 0x20 then 0x00, so poll number 1 is the first that is ready. -/
theorem witness_WrcharTransmitsItsByte :
    let s := waiting [⟨0x00000003#32 ||| ((0x48#8 : Byte).setWidth 32 <<< 8), exBase, []⟩] [1#32, 1#32, 0x20#32, 0x00#32]
    Offered ⟨0x00000003#32 ||| ((0x48#8 : Byte).setWidth 32 <<< 8), exBase, []⟩ s ∧
    (s.answerAt 0 &&& s.params.feMask ≠ 0#32 ∧ s.answerAt 1 &&& s.params.teMask ≠ 0#32) ∧
    (∀ j < 1, (s.answerAt (2 + j)).getLsbD 5 = true) ∧ (s.answerAt (2 + 1)).getLsbD 5 = false :=
  ⟨⟨rfl, rfl, by decide, rfl⟩, by decide, by decide, by decide⟩

/-- R123's example: legacy mode, LSR reads 0x20, 0x00, 0x20. -/
theorem witness_WrbytesTransmitsItsBuffer :
    let ps : List (Byte × Nat) := [(0x41#8, 0), (0x42#8, 1)]
    let c : Command := ⟨0x00000004#32 ||| (BitVec.ofNat 32 ps.length <<< 16), exBase, ps.map Prod.fst⟩
    let s := waiting [c] [0#32, 0#32, 0x20#32, 0x00#32, 0x20#32]
    Offered c s ∧ ps ≠ [] ∧ ps.length ≤ 65535 ∧
    ¬(s.answerAt 0 &&& s.params.feMask ≠ 0#32 ∧ s.answerAt 1 &&& s.params.teMask ≠ 0#32) ∧
    PollsEnd .legacy s.answerAt 2 ps :=
  ⟨⟨rfl, rfl, by decide, rfl⟩, by decide, by decide, by decide, by decide, by decide, by decide, by decide, trivial⟩

/-- T-5: FIFO mode, three bytes, two of them equal; the polls meet 1, 0 and 1 not-ready answers. -/
theorem witness_WrbytesWritesExactlyItsBytes :
    let ps : List (Byte × Nat) := [(0x00#8, 1), (0xFF#8, 0), (0x00#8, 1)]
    let c : Command := ⟨0x00000004#32 ||| (BitVec.ofNat 32 ps.length <<< 16), exBase, ps.map Prod.fst⟩
    let s := waiting [c] [1#32, 1#32, 0x20#32, 0x00#32, 0x00#32, 0xFF#32, 0xDF#32]
    Offered c s ∧ ps ≠ [] ∧ ps.length ≤ 65535 ∧
    (s.answerAt 0 &&& s.params.feMask ≠ 0#32 ∧ s.answerAt 1 &&& s.params.teMask ≠ 0#32) ∧
    PollsEnd .fifo s.answerAt 2 ps :=
  ⟨⟨rfl, rfl, by decide, rfl⟩, by decide, by decide, by decide, by decide, by decide, by decide, by decide, by decide,
    by decide, trivial⟩

/-- R141's example: LSR reads 0x20, 0x00, 0x60. -/
theorem witness_FlushEndsOnTheFirstIdleRead :
    let s := waiting [cFlush] [0x20#32, 0x00#32, 0x60#32]
    Offered cFlush s ∧ (∀ j < 2, (s.answerAt j).getLsbD 6 = false) ∧ (s.answerAt 2).getLsbD 6 = true :=
  ⟨⟨rfl, rfl, by decide, rfl⟩, by decide, by decide⟩

theorem witness_SetupWritesTheWholeSequence : Offered cSetup (waiting [cSetup] []) := ⟨rfl, rfl, by decide, rfl⟩

/-- Two states that differ in their answers, and a number of steps at the end of the sequence. -/
theorem witness_SetupIsIdempotent :
    Offered cSetup (waiting [cSetup] []) ∧ Offered cSetup (waiting [cSetup] [0xFFFFFFFF#32]) ∧
    (waiting [cSetup] []).params.setupSeq = (waiting [cSetup] [0xFFFFFFFF#32]).params.setupSeq ∧
    4 ≤ 1 + (waiting [cSetup] []).params.setupSeq.entries.length :=
  ⟨⟨rfl, rfl, by decide, rfl⟩, ⟨rfl, rfl, by decide, rfl⟩, rfl, by decide⟩

theorem witness_OneByteBufferTracesAsWrchar :
    (waiting [] [1#32, 1#32, 0#32]).resetReq = false ∧ (waiting [] [1#32, 1#32, 0#32]).phase = .idle ∧
    exBase.extractLsb' 0 2 = 0#2 := by decide

/-- V-HANG: legacy mode and LSR answers with bit 5 = 0. -/
theorem witness_TransmitPollNeverTimesOut :
    let s := running .pollTx (.wrchar 0x48#8 exBase []) (some .legacy) [0x00#32, 0x40#32]
    s.resetReq = false ∧ s.phase = .pollTx ∧ s.mode = some .legacy ∧ s.cmd.op = 3#4 ∧
    ∀ k < 2, ready .legacy (s.answerAt k) = false := by decide

/-- D-4: bit 5 set, bit 6 clear. -/
theorem witness_FlushNeverTimesOut :
    let s := running .pollIdle (.flush exBase []) none [0x20#32, 0x20#32]
    s.resetReq = false ∧ s.phase = .pollIdle ∧ s.cmd.op = 5#4 ∧ ∀ k < 2, (s.answerAt k).getLsbD 6 = false := by decide

/-- One byte is left, and the second answer is ready. -/
theorem witness_TransmitEndsIfReadyOftenEnough :
    StateInv midBuffer ∧ midBuffer.resetReq = false ∧ midBuffer.phase = .pollTx ∧ midBuffer.mode = some .fifo ∧
    ReadyAnswers .fifo midBuffer (if midBuffer.cmd.op = 4#4 then midBuffer.cmd.len.toNat - midBuffer.idx else 1) :=
  ⟨midBuffer_inv, rfl, rfl, rfl, [1], by simp, by decide, by decide⟩

theorem witness_FlushEndsIfEventuallyIdle :
    let s := running .pollIdle (.flush exBase []) none [0x20#32, 0x60#32]
    StateInv s ∧ s.resetReq = false ∧ s.phase = .pollIdle ∧ EventuallyIdle s :=
  ⟨flush_inv _, rfl, rfl, 1, by decide⟩

end Sys2Proof.Tests
end

section
/-! PROOFS. The registers of the block: what a step does to STATUS, RESULT, `cmd` and the offers, in one lemma, and the
statements about them. -/

namespace Sys2Proof.Machine

/-! ### The parts a step is made of -/

/-- u is s with one more event: what the host reads, the parameters and the reset input are as in s. -/
structure Emits (s : State) (e : Event) (u : State) : Prop where
  trace    : u.trace = s.trace ++ [e]
  status   : u.status = s.status
  result   : u.result = s.result
  params   : u.params = s.params
  resetReq : u.resetReq = s.resetReq

/-- The last part of a step of a command: the command goes on in a phase outside `IDLE`, or it completes. -/
inductive Concludes (u : State) : State → Prop where
  | goesOn (p : Phase) (hp : p ≠ .idle) : Concludes u (goTo p u)
  | completes (r : Word) : Concludes u (complete r u)

theorem Concludes.cmd {u t : State} (h : Concludes u t) : t.cmd = u.cmd := by cases h <;> rfl
theorem Concludes.offers {u t : State} (h : Concludes u t) : t.offers = u.offers := by cases h <;> rfl
theorem Concludes.fault {u t : State} (h : Concludes u t) : t.status.fault = u.status.fault := by cases h <;> rfl

/-- Only a completion responds, with the word it leaves in RESULT. -/
theorem Concludes.response {u t : State} (h : Concludes u t) :
    (t.phase ≠ .idle ∧ t.result = u.result ∧ t.trace = u.trace) ∨
    (t.phase = .idle ∧ t.trace = u.trace ++ [.resp .ok t.result]) := by
  cases h with
  | goesOn p hp => exact .inl ⟨hp, rfl, rfl⟩
  | completes r => exact .inr ⟨rfl, rfl⟩

/-- A choice between completing and going on concludes a step. -/
theorem Concludes.ite {u : State} {r : Word} {p : Phase} {c : Prop} [Decidable c] (hp : p ≠ .idle) :
    Concludes u (if c then complete r u else goTo p u) := by
  split
  · exact .completes r
  · exact .goesOn p hp

theorem emits_busRead (a : Word) (s : State) : Emits s (.rd a s.answer) (busRead a s) := ⟨rfl, rfl, rfl, rfl, rfl⟩

theorem emits_readTe (s : State) : Emits s (.rd (s.addr Const.offTe) s.answer) (readTe s) := ⟨rfl, rfl, rfl, rfl, rfl⟩

theorem emits_writeThr (v : Byte) (s : State) : Emits s (.wr (s.addr Const.offThr) (.byte v)) (writeThr v s) :=
  ⟨rfl, rfl, rfl, rfl, rfl⟩

theorem emits_writeEntry (e : SetupEntry) (s : State) : Emits s (.wr (s.addr e.off) e.value) (writeEntry e s) :=
  ⟨rfl, rfl, rfl, rfl, rfl⟩

/-! ### What a step is -/

/-- A step of a running command is one bus transaction, which touches neither `cmd` nor the offers, and a conclusion. -/
theorem exec_running_transaction {i : Instr} {s t : State} (hp : s.phase ≠ .idle) (h : exec i s = .next t) :
    ∃ e u, e.isBus = true ∧ Emits s e u ∧ u.cmd = s.cmd ∧ u.offers = s.offers ∧ Concludes u t := by
  obtain ⟨-, rfl⟩ | ⟨-, -, rfl⟩ | ⟨-, -, rfl⟩ | ⟨-, -, rfl⟩ | ⟨-, -, m, -, rfl⟩ | ⟨-, -, m, -, rfl⟩ | ⟨-, -, rfl⟩ |
    ⟨-, -, v, -, rfl⟩ | ⟨-, -, rfl⟩ | ⟨-, -, hsetup⟩ := exec_running hp h
  · exact ⟨.rd (s.addr Const.offFe) s.answer,
      { busRead (s.addr Const.offFe) s with fe := flagSet s.params.feMask s.answer }, rfl,
      ⟨rfl, rfl, rfl, rfl, rfl⟩, rfl, rfl, .goesOn .flagTe (by decide)⟩
  · exact ⟨_, _, rfl, emits_readTe s, rfl, rfl, .completes _⟩
  · exact ⟨_, _, rfl, emits_readTe s, rfl, rfl, .goesOn _ (by decide)⟩
  · exact ⟨_, _, rfl, emits_readTe s, rfl, rfl, .goesOn _ (by decide)⟩
  · exact ⟨_, _, rfl, emits_busRead _ s, rfl, rfl, .completes _⟩
  · exact ⟨_, _, rfl, emits_busRead _ s, rfl, rfl, .goesOn _ (by split <;> decide)⟩
  · exact ⟨_, _, rfl, emits_writeThr _ s, rfl, rfl, .completes _⟩
  · exact ⟨_, _, rfl, emits_writeThr v s, rfl, rfl, .ite (by decide)⟩
  · exact ⟨_, _, rfl, emits_busRead _ s, rfl, rfl, .ite (by decide)⟩
  · obtain ⟨e, -, rfl⟩ := stepSetup_next hsetup
    exact ⟨_, _, rfl, emits_writeEntry e s, rfl, rfl, .ite (by decide)⟩

/-- The acceptance action of a command writes at most the mode latch before it concludes. -/
theorem acceptAction_concludes (i : Instr) (s : State) :
    ∃ m, Concludes { s with mode := m } (acceptAction i s) := by
  cases i with
  | readym m base data => exact ⟨some m, .goesOn .pollOnce (by decide)⟩
  | wrbytes len base data => exact ⟨s.mode, .ite (by decide)⟩
  | flush base data => exact ⟨s.mode, .goesOn .pollIdle (by decide)⟩
  | setup base data => exact ⟨s.mode, .goesOn .setupStep (by decide)⟩
  | detect base data | ready base data | wrchar b base data => exact ⟨s.mode, .goesOn .flagFe (by decide)⟩

/-- The four kinds of step without a reset. -/
inductive StepKind (s t : State) : Prop where
  /-- an idle block with no offer stays as it is -/
  | waits (hp : s.phase = .idle) (ho : s.offers = []) (ht : t = s)
  /-- the oldest offer is refused -/
  | refuses (c : Command) (rest : List Command) (f : FaultCode) (hp : s.phase = .idle) (ho : s.offers = c :: rest)
      (ht : t = raiseFault f (takeOffer c rest s))
  /-- the oldest offer is accepted and latched -/
  | starts (c : Command) (rest : List Command) (i : Instr) (u : State) (hp : s.phase = .idle)
      (ho : s.offers = c :: rest) (hd : decode c = .ok i) (hw : i.wellFormed = true) (hu : Emits s (.accept c) u)
      (hcmd : u.cmd = latchOf i) (hoffers : u.offers = rest) (ht : Concludes u t)
  /-- the latched command makes a bus transaction -/
  | transacts (e : Event) (u : State) (hp : s.phase ≠ .idle) (he : e.isBus = true) (hu : Emits s e u)
      (hcmd : u.cmd = s.cmd) (hoffers : u.offers = s.offers) (ht : Concludes u t)

theorem step_kind {s t : State} (hr : s.resetReq = false) (h : step s = .next t) : StepKind s t := by
  obtain ⟨hr', -⟩ | ⟨-, hp, ho, rfl⟩ | ⟨-, hp, c, rest, e, ho, -, rfl⟩ | ⟨-, hp, c, rest, i, ho, hd, rfl⟩ |
    ⟨-, hp, i, -, hexec⟩ := step_cases h
  · simp [hr] at hr'
  · exact .waits hp ho rfl
  · exact .refuses c rest .illegal hp ho rfl
  · obtain ⟨-, hacc⟩ | ⟨-, -, hacc⟩ | ⟨hw, hacc⟩ := accept_cases i (acceptAction i) (takeOffer c rest s)
    · exact .refuses c rest .length hp ho hacc
    · exact .refuses c rest .align hp ho hacc
    · obtain ⟨m, hm⟩ := acceptAction_concludes i (latch i (takeOffer c rest s))
      refine .starts c rest i { latch i (takeOffer c rest s) with mode := m } hp ho hd hw ⟨rfl, rfl, rfl, rfl, rfl⟩
        rfl rfl ?_
      rwa [hacc]
  · obtain ⟨e, u, he, hu, hcmd, hoffers, ht⟩ := exec_running_transaction hp hexec
    exact .transacts e u hp he hu hcmd hoffers ht

/-- A bus transaction is neither an acceptance nor a response. -/
theorem Event.isResp_of_isBus {e : Event} (h : e.isBus = true) : e.isResp = false := by
  cases e <;> simp_all

theorem Event.accept_ne_of_isBus {e : Event} (h : e.isBus = true) (c : Command) : .accept c ≠ e := by
  rintro rfl
  cases h

theorem Event.resp_ne_of_isBus {e : Event} (h : e.isBus = true) (st : RespStatus) (r : Word) : .resp st r ≠ e := by
  rintro rfl
  cases h

/-! ### The latch `cmd` -/

/-- A field that a row's mask keeps whole is the row's own. -/
theorem extractLsb'_of_masked {cw mask pattern : Word} (h : cw &&& mask = pattern) {k n : Nat}
    (hmask : mask.extractLsb' k n = BitVec.allOnes n) : cw.extractLsb' k n = pattern.extractLsb' k n := by
  rw [← h, BitVec.extractLsb'_and, hmask, BitVec.and_allOnes]

/-- A bit that a row's mask keeps is the row's own. -/
theorem getLsbD_of_masked {cw mask pattern : Word} (h : cw &&& mask = pattern) {k : Nat}
    (hmask : mask.getLsbD k = true) : cw.getLsbD k = pattern.getLsbD k := by
  rw [← h, BitVec.getLsbD_and, hmask, Bool.and_true]

/-- R83: the latch of a decoded command holds the fields of its word. -/
theorem latchOf_of_decode {c : Command} {i : Instr} (h : decode c = .ok i) :
    latchOf i = { op := c.cw.extractLsb' 0 4, base := c.base, m := c.cw.getLsbD 4, b := c.cw.extractLsb' 8 8,
                  len := c.cw.extractLsb' 16 16, data := c.data } := by
  rw [decode_eq] at h
  split_ifs at h with h1 h2 h3 h4 h5 h6 h7 <;> injection h with h <;> subst h
  · rw [h1]; rfl
  · rw [h2]; rfl
  · rw [extractLsb'_of_masked h3 (k := 0) (n := 4) (by decide), getLsbD_of_masked h3 (k := 4) (by decide),
      extractLsb'_of_masked h3 (k := 16) (n := 16) (by decide)]; rfl
  · rw [extractLsb'_of_masked h4 (k := 0) (n := 4) (by decide), getLsbD_of_masked h4 (k := 4) (by decide),
      extractLsb'_of_masked h4 (k := 8) (n := 8) (by decide)]; rfl
  · rw [h5]; rfl
  · rw [h6]; rfl
  · rw [extractLsb'_of_masked h7 (k := 0) (n := 4) (by decide), extractLsb'_of_masked h7 (k := 8) (n := 8) (by decide),
      extractLsb'_of_masked h7 (k := 16) (n := 16) (by decide)]
    simp [latchOf, Instr.op, Instr.base, Instr.data, fieldM]

/-- Acceptance does not read `cmd`. -/
theorem accept_ignores_cmd (i : Instr) (action : State → State) (s : State) (x : Cmd) :
    ∃ y, accept i action { s with cmd := x } = { accept i action s with cmd := y } := by
  unfold accept
  split
  · split
    · exact ⟨(action (latch i s)).cmd, rfl⟩
    · exact ⟨x, rfl⟩
  · exact ⟨x, rfl⟩

/-- With no reset and no offer an idle block stays as it is. -/
theorem step_no_offer {s : State} (hr : s.resetReq = false) (hp : s.phase = .idle) (ho : s.offers = []) :
    step s = .next s := by
  simp [step, fetch, hr, hp, ho]

/-- An idle block does not read `cmd`. -/
theorem step_idle_ignores_cmd {s t : State} (hr : s.resetReq = false) (hp : s.phase = .idle) (h : step s = .next t)
    (x : Cmd) : ∃ y, step { s with cmd := x } = .next { t with cmd := y } := by
  obtain ⟨hr', -⟩ | ⟨-, -, ho, rfl⟩ | ⟨-, -, c, rest, e, ho, hd, rfl⟩ | ⟨-, -, c, rest, i, ho, hd, rfl⟩ |
    ⟨-, hp', -⟩ := step_cases h
  · simp [hr] at hr'
  · exact ⟨x, step_no_offer hr hp ho⟩
  · exact ⟨x, step_illegal hr hp ho hd⟩
  · obtain ⟨y, hy⟩ := accept_ignores_cmd i (acceptAction i) (takeOffer c rest s) x
    have hstep := step_offered (s := { s with cmd := x }) hr hp ho hd
    exact ⟨y, hstep.trans (congrArg Host.Outcome.next hy)⟩
  · exact absurd hp hp'

/-! ### STATUS -/

/-- With the reset input raised a step is the reset. -/
theorem step_reset {s : State} (hr : s.resetReq = true) : step s = .next (takeReset s) := by
  simp [step, fetch, hr]

theorem eq_takeReset_of_step {s t : State} (hr : s.resetReq = true) (h : step s = .next t) : t = takeReset s := by
  rw [step_reset hr] at h
  injection h with h
  exact h.symm

/-- R161, R163: the code a refusal leaves in FAULT. -/
theorem keepFirst_fault (f : FaultCode) (st : Status) :
    (st.keepFirst f).fault = if st.fault = 0#3 then
      (if f = .illegal then 1#3 else if f = .length then 2#3 else 3#3) else st.fault := by
  by_cases h : st.fault = 0#3
  · rw [keepFirst_of_zero f h, if_pos h]
    cases f <;> rfl
  · rw [keepFirst_of_ne f h, if_neg h]

/-- R27: the bits of STATUS, from BUSY up. -/
theorem Status.getLsbD_word (st : Status) (k : Nat) :
    st.word.getLsbD k = if k = 0 then st.busy else st.fault.getLsbD (k - 1) := by
  have happend : st.word.getLsbD k = ((0#28 ++ st.fault) ++ BitVec.ofBool st.busy).getLsbD k := rfl
  rw [happend, BitVec.getLsbD_append, BitVec.getLsbD_append]
  rcases k with _ | k
  · simp
  · by_cases hk : k < 3
    · simp [hk]
    · simp [hk, BitVec.getLsbD_of_ge st.fault k (by omega)]

theorem Status.word_busy (st : Status) : st.word.getLsbD 0 = st.busy := st.getLsbD_word 0

theorem Status.word_fault (st : Status) : st.word.extractLsb' 1 3 = st.fault := by
  ext k hk
  simp [Status.getLsbD_word, BitVec.getLsbD_eq_getElem hk]

theorem Status.word_zero (st : Status) : st.word.extractLsb' 4 28 = 0#28 := by
  ext k hk
  have hidx : 4 + k - 1 = 3 + k := by omega
  simp [Status.getLsbD_word, hidx]

/-! ### The statements -/

/-- Settles O28: the reset state's fields are literals, and the word of STATUS is evaluated. -/
theorem resetStateHasItsValues : Obligations.ResetStateHasItsValues := by
  refine ⟨rfl, rfl, rfl, rfl, rfl, ?_, rfl⟩
  decide

/-- Settles O21: of the four kinds of step, a refusal and a completion respond, and those end a command. -/
theorem oneResponseEndsEachCommand : Obligations.OneResponseEndsEachCommand := by
  intro s t hr h
  cases step_kind hr h with
  | waits hp ho ht =>
    subst ht
    exact ⟨[], by simp [hp, ho]⟩
  | refuses c rest f hp ho ht =>
    subst ht
    exact ⟨[.accept c, .resp (.fault f) 0#32], by simp [hp, ho, List.filter_cons]⟩
  | starts c rest i u hp ho hd hw hu hcmd hoffers ht =>
    obtain ⟨hpt, -, htr⟩ | ⟨hpt, htr⟩ := ht.response
    · exact ⟨[.accept c], by simp [htr, hu.trace, hpt]⟩
    · exact ⟨[.accept c, .resp .ok t.result], by simp [htr, hu.trace, hpt, hp, ho, List.filter_cons]⟩
  | transacts e u hp he hu hcmd hoffers ht =>
    have hresp := Event.isResp_of_isBus he
    have hne := Event.resp_ne_of_isBus he
    obtain ⟨hpt, -, htr⟩ | ⟨hpt, htr⟩ := ht.response
    · exact ⟨[e], by simp [htr, hu.trace, hpt, hresp, hne]⟩
    · exact ⟨[e, .resp .ok t.result], by simp [htr, hu.trace, hpt, hp, List.filter_cons, hresp, hne]⟩

/-- Settles O31: the two kinds of step that take an offer record it, and a transaction leaves the offers. -/
theorem offersWaitWhileBusy : Obligations.OffersWaitWhileBusy := by
  intro s t hr h
  cases step_kind hr h with
  | waits hp ho ht => simp [hp, ho]
  | refuses c rest f hp ho ht =>
    subst ht
    simp [hp, ho]
  | starts c rest i u hp ho hd hw hu hcmd hoffers ht =>
    obtain ⟨-, -, htr⟩ | ⟨-, htr⟩ := ht.response <;>
      simp [hp, ho, htr, hu.trace, ht.offers, hoffers]
  | transacts e u hp he hu hcmd hoffers ht =>
    have hne := Event.accept_ne_of_isBus he
    obtain ⟨-, -, htr⟩ | ⟨-, htr⟩ := ht.response <;>
      simp [hp, htr, hu.trace, ht.offers, hoffers, hne]

/-- Settles O23: RESULT changes with a refusal and with a completion, which respond with its new value. -/
theorem resultIsWrittenOnlyByResponses : Obligations.ResultIsWrittenOnlyByResponses := by
  refine ⟨rfl, fun s t h => ⟨fun hr => ?_, fun hr => ?_⟩⟩
  · obtain rfl := eq_takeReset_of_step hr h
    rfl
  cases step_kind hr h with
  | waits hp ho ht =>
    subst ht
    exact ⟨[], by simp⟩
  | refuses c rest f hp ho ht =>
    subst ht
    exact ⟨[.accept c, .resp (.fault f) 0#32], by simp [readResult]⟩
  | starts c rest i u hp ho hd hw hu hcmd hoffers ht =>
    obtain ⟨-, hres, htr⟩ | ⟨-, htr⟩ := ht.response
    · exact ⟨[.accept c], by simp [htr, hu.trace, readResult, hres, hu.result]⟩
    · exact ⟨[.accept c, .resp .ok t.result], by simp [htr, hu.trace, readResult]⟩
  | transacts e u hp he hu hcmd hoffers ht =>
    have hne := Event.resp_ne_of_isBus he
    obtain ⟨-, hres, htr⟩ | ⟨-, htr⟩ := ht.response
    · exact ⟨[e], by simp [htr, hu.trace, readResult, hres, hu.result, hne]⟩
    · exact ⟨[e, .resp .ok t.result], by simp [htr, hu.trace, readResult, hne]⟩

/-- Settles O24: only an accepted offer is latched, and a transaction leaves `cmd`. -/
theorem latchedCommandIsConstant : Obligations.LatchedCommandIsConstant := by
  intro s t hr h
  refine ⟨fun hp => ?_, fun hp => ?_, fun hp => step_idle_ignores_cmd hr hp h⟩
  · cases step_kind hr h with
    | transacts e u _ he hu hcmd hoffers ht => rw [ht.cmd, hcmd]
    | waits hp' | refuses _ _ _ hp' | starts _ _ _ _ hp' => exact absurd hp' hp
  · cases step_kind hr h with
    | waits _ ho ht => exact .inl (by rw [ht])
    | refuses c rest f _ ho ht => exact .inl (by rw [ht]; rfl)
    | starts c rest i u _ ho hd hw hu hcmd hoffers ht =>
      exact .inr ⟨c, rest, i, ho, hd, hw, by rw [ht.cmd, hcmd, latchOf_of_decode hd]⟩
    | transacts _ _ hp' => exact absurd hp hp'

/-- Settles O22: the bits of the word, the invariant, and that of the four kinds of step only a refusal writes FAULT. -/
theorem statusFollowsItsRule : Obligations.StatusFollowsItsRule := by
  refine ⟨fun s => ⟨s.status.word_busy, s.status.word_fault, s.status.word_zero⟩, by decide, fun s hs => ?_,
    fun s t h => ⟨fun hr => ?_, fun hr => ?_⟩⟩
  · rw [readStatus, Status.word_busy, Status.word_fault, hs.busy]
    exact ⟨by simp, hs.fault⟩
  · obtain rfl := eq_takeReset_of_step hr h
    rfl
  cases step_kind hr h with
  | waits hp ho ht =>
    subst ht
    simp
  | refuses c rest f hp ho ht =>
    subst ht
    simp [keepFirst_fault]
  | starts c rest i u hp ho hd hw hu hcmd hoffers ht =>
    obtain ⟨-, -, htr⟩ | ⟨-, htr⟩ := ht.response <;>
      simp [htr, hu.trace, ht.fault, hu.status]
  | transacts e u hp he hu hcmd hoffers ht =>
    have hne := Event.accept_ne_of_isBus he
    obtain ⟨-, -, htr⟩ | ⟨-, htr⟩ := ht.response <;>
      simp [htr, hu.trace, ht.fault, hu.status, (hne _).symm]

end Sys2Proof.Machine
end

section
/-! PROOFS. The addresses and widths of the bus transactions a command's step issues (20_memory.md rule R51). -/

namespace Sys2Proof.Machine

/-- The transactions of the map that a block in state s can issue: the reads of LSR, FE and TE, a byte written to THR,
and an entry of SETUP_SEQ (R36, R51). -/
inductive MapTransaction (s : State) : Event → Prop where
  | readLsr (w : Word) : MapTransaction s (.rd (s.addr Const.offLsr) w)
  | readFe (w : Word) : MapTransaction s (.rd (s.addr Const.offFe) w)
  | readTe (w : Word) : MapTransaction s (.rd (s.addr Const.offTe) w)
  | writeThr (v : Byte) : MapTransaction s (.wr (s.addr Const.offThr) (.byte v))
  | writeEntry {e : SetupEntry} (he : e ∈ s.params.setupSeq.entries) : MapTransaction s (.wr (s.addr e.off) e.value)

theorem MapTransaction.rd_addr {s : State} {a v : Word} (h : MapTransaction s (.rd a v)) :
    a = s.cmd.base + 0x14#32 ∨ a = s.cmd.base + 0x98#32 ∨ a = s.cmd.base + 0xA0#32 := by
  cases h with
  | readLsr => exact .inl rfl
  | readFe => exact .inr (.inl rfl)
  | readTe => exact .inr (.inr rfl)

theorem MapTransaction.wr_addr {s : State} {a : Word} {d : WriteData} (h : MapTransaction s (.wr a d)) :
    (a = s.cmd.base + 0x00#32 ∧ ∃ v, d = .byte v) ∨
      ∃ e ∈ s.params.setupSeq.entries, a = s.cmd.base + e.off ∧ d = e.value := by
  cases h with
  | writeThr v => exact .inl ⟨rfl, v, rfl⟩
  | writeEntry he => exact .inr ⟨_, he, rfl, rfl⟩

/-- The transaction of a running command's step is one of the map. -/
theorem exec_running_mapTransaction {i : Instr} {s t : State} (hp : s.phase ≠ .idle) (h : exec i s = .next t) :
    ∃ e u, MapTransaction s e ∧ u.trace = s.trace ++ [e] ∧ Concludes u t := by
  obtain ⟨-, rfl⟩ | ⟨-, -, rfl⟩ | ⟨-, -, rfl⟩ | ⟨-, -, rfl⟩ | ⟨-, -, m, -, rfl⟩ | ⟨-, -, m, -, rfl⟩ | ⟨-, -, rfl⟩ |
    ⟨-, -, v, -, rfl⟩ | ⟨-, -, rfl⟩ | ⟨-, -, hsetup⟩ := exec_running hp h
  · exact ⟨_, { busRead (s.addr Const.offFe) s with fe := flagSet s.params.feMask s.answer }, .readFe _, rfl,
      .goesOn .flagTe (by decide)⟩
  · exact ⟨_, _, .readTe _, readTe_trace s, .completes _⟩
  · exact ⟨_, _, .readTe _, readTe_trace s, .goesOn _ (by decide)⟩
  · exact ⟨_, _, .readTe _, readTe_trace s, .goesOn _ (by decide)⟩
  · exact ⟨_, _, .readLsr _, busRead_trace s _, .completes _⟩
  · exact ⟨_, _, .readLsr _, busRead_trace s _, .goesOn _ (by split <;> decide)⟩
  · exact ⟨_, _, .writeThr _, writeThr_trace s _, .completes _⟩
  · exact ⟨_, _, .writeThr v, writeThr_trace s v, .ite (by decide)⟩
  · exact ⟨_, _, .readLsr _, busRead_trace s _, .ite (by decide)⟩
  · obtain ⟨e, he, rfl⟩ := stepSetup_next hsetup
    exact ⟨_, _, .writeEntry (List.mem_of_getElem? he), writeEntry_trace s e, .ite (by decide)⟩

/-- The conclusion of a step adds no bus transaction. -/
theorem Concludes.trace_no_bus {u t : State} (h : Concludes u t) :
    ∃ es, t.trace = u.trace ++ es ∧ ∀ e ∈ es, e.isBus = false := by
  obtain ⟨-, -, htr⟩ | ⟨-, htr⟩ := h.response
  · exact ⟨[], by simp [htr]⟩
  · exact ⟨[.resp .ok t.result], htr, by simp⟩

/-- In `IDLE` a command's step is its acceptance, which adds no bus transaction (60_exceptions.md rule R162). -/
theorem exec_idle_no_bus {i : Instr} {s t : State} (hp : s.phase = .idle) (h : exec i s = .next t) :
    ∃ es, t.trace = s.trace ++ es ∧ ∀ e ∈ es, e.isBus = false := by
  rw [exec_idle hp] at h
  injection h with h
  subst h
  obtain ⟨-, hacc⟩ | ⟨-, -, hacc⟩ | ⟨-, hacc⟩ := accept_cases i (acceptAction i) s
  · exact ⟨[.resp (.fault .length) 0#32], by simp [hacc]⟩
  · exact ⟨[.resp (.fault .align) 0#32], by simp [hacc]⟩
  · obtain ⟨m, hm⟩ := acceptAction_concludes i (latch i s)
    rw [hacc]
    exact hm.trace_no_bus

/-- A command's step adds no bus transaction but those of the map. -/
theorem exec_trace_mapped {i : Instr} {s t : State} (h : exec i s = .next t) :
    ∃ es, t.trace = s.trace ++ es ∧ ∀ e ∈ es, e.isBus = true → MapTransaction s e := by
  by_cases hp : s.phase = .idle
  · obtain ⟨es, htr, hes⟩ := exec_idle_no_bus hp h
    exact ⟨es, htr, fun e he hbus => absurd hbus (by simp [hes e he])⟩
  · obtain ⟨e, u, he, hu, ht⟩ := exec_running_mapTransaction hp h
    obtain ⟨es, htr, hes⟩ := ht.trace_no_bus
    refine ⟨e :: es, by simp [htr, hu], fun e' he' hbus => ?_⟩
    obtain rfl | hmem := List.mem_cons.1 he'
    · exact he
    · exact absurd hbus (by simp [hes e' hmem])

/-- Settles O32: the events of a step that are bus transactions are among the map's five kinds. -/
theorem everyTransactionIsOneOfTheMap : Obligations.EveryTransactionIsOneOfTheMap := by
  intro i s t h
  obtain ⟨es, htr, hes⟩ := exec_trace_mapped h
  exact ⟨es, htr, fun a v hmem => (hes _ hmem rfl).rd_addr, fun a d hmem => (hes _ hmem rfl).wr_addr⟩

end Sys2Proof.Machine
end

section
/-! PROOFS. Command words: which row a word selects (30_encoding.md rule R84), the fields that decide it, and the
illegal words (R86). -/

namespace Sys2Proof.Machine

/-! ### At most one row of the table -/

/-- R84's own argument: every mask covers OP and no two rows have one OP. -/
theorem row_unique {r r' : Row} (hr : r ∈ opcodeTable) (hr' : r' ∈ opcodeTable) {cw : Word}
    (h : cw &&& r.mask = r.pattern) (h' : cw &&& r'.mask = r'.pattern) : r = r' := by
  have hmask : ∀ r ∈ opcodeTable, r.mask.extractLsb' 0 4 = BitVec.allOnes 4 := by decide
  have hop : ∀ r ∈ opcodeTable, ∀ r' ∈ opcodeTable,
      r.pattern.extractLsb' 0 4 = r'.pattern.extractLsb' 0 4 → r = r' := by decide
  apply hop r hr r' hr'
  rw [← extractLsb'_of_masked h (hmask r hr), ← extractLsb'_of_masked h' (hmask r' hr')]

/-- The verdict of R88 is the row that matches, wherever it stands in the table. -/
theorem rowOf_eq_some_iff {cw : Word} {r : Row} :
    rowOf cw = some r ↔ r ∈ opcodeTable ∧ cw &&& r.mask = r.pattern := by
  constructor
  · intro h
    exact ⟨List.mem_of_find?_eq_some h, by simpa [Row.selects] using List.find?_some h⟩
  · rintro ⟨hr, h⟩
    cases hf : rowOf cw with
    | none =>
      have hnone := List.find?_eq_none.1 hf r hr
      exact absurd h (by simpa [Row.selects] using hnone)
    | some r' =>
      have hsel : cw &&& r'.mask = r'.pattern := by simpa [Row.selects] using List.find?_some hf
      rw [row_unique hr (List.mem_of_find?_eq_some hf) h hsel]

/-- The decoder answers the operands of the matching row. -/
theorem decode_eq_ok_iff {c : Command} {i : Instr} :
    decode c = .ok i ↔ ∃ r ∈ opcodeTable, c.cw &&& r.mask = r.pattern ∧ i = operandsOf r.mn c := by
  simp only [← and_assoc, ← rowOf_eq_some_iff]
  unfold decode
  cases hrow : rowOf c.cw with
  | none => by_cases hop : fieldOp c.cw = 0#4 ∨ 8 ≤ (fieldOp c.cw).toNat <;> simp [hop]
  | some r => simp [eq_comm]

/-- The decoder answers an error exactly where no row matches. -/
theorem decode_error_iff {c : Command} :
    (∃ e, decode c = .error e) ↔ ¬ ∃ r ∈ opcodeTable, c.cw &&& r.mask = r.pattern := by
  have hok : (∃ r ∈ opcodeTable, c.cw &&& r.mask = r.pattern) ↔ ∃ i, decode c = .ok i := by
    simp [decode_eq_ok_iff]
  rw [hok]
  cases decode c <;> simp

/-! ### The fields of a word -/

theorem getLsbD_eq_of_extractLsb'_eq {v w : Word} {k n j : Nat} (h : v.extractLsb' k n = w.extractLsb' k n)
    (hk : k ≤ j) (hj : j < k + n) : v.getLsbD j = w.getLsbD j := by
  have hbit := congrArg (·.getLsbD (j - k)) h
  simpa [BitVec.getLsbD_extractLsb', show j - k < n by omega, show k + (j - k) = j by omega] using hbit

/-- R81: the five fields are all of a command word. -/
theorem word_eq_iff_fields {v w : Word} :
    v = w ↔ v.extractLsb' 0 4 = w.extractLsb' 0 4 ∧ v.getLsbD 4 = w.getLsbD 4 ∧
      v.extractLsb' 5 3 = w.extractLsb' 5 3 ∧ v.extractLsb' 8 8 = w.extractLsb' 8 8 ∧
      v.extractLsb' 16 16 = w.extractLsb' 16 16 := by
  constructor
  · rintro rfl
    exact ⟨rfl, rfl, rfl, rfl, rfl⟩
  · rintro ⟨hop, hm, hres, hb, hl⟩
    apply BitVec.eq_of_getLsbD_eq
    intro j hj
    obtain h | rfl | h | h | h : j < 4 ∨ j = 4 ∨ (5 ≤ j ∧ j < 8) ∨ (8 ≤ j ∧ j < 16) ∨ 16 ≤ j := by omega
    · exact getLsbD_eq_of_extractLsb'_eq hop (by omega) (by omega)
    · exact hm
    · exact getLsbD_eq_of_extractLsb'_eq hres (by omega) (by omega)
    · exact getLsbD_eq_of_extractLsb'_eq hb (by omega) (by omega)
    · exact getLsbD_eq_of_extractLsb'_eq hl (by omega) (by omega)

/-- The masks and patterns of R84, field by field: M is free in the row of OP 7 alone, B in that of OP 3, L in that of
OP 4, and every other bit must be the pattern's, which is 0 outside OP. -/
theorem opcodeTable_fields : ∀ r ∈ opcodeTable,
    (r.mask.extractLsb' 0 4 = BitVec.allOnes 4 ∧ r.mask.getLsbD 4 = !decide (r.pattern.extractLsb' 0 4 = 7#4) ∧
      r.mask.extractLsb' 5 3 = BitVec.allOnes 3 ∧
      r.mask.extractLsb' 8 8 = (if r.pattern.extractLsb' 0 4 = 3#4 then 0#8 else BitVec.allOnes 8) ∧
      r.mask.extractLsb' 16 16 = (if r.pattern.extractLsb' 0 4 = 4#4 then 0#16 else BitVec.allOnes 16)) ∧
    r.pattern.getLsbD 4 = false ∧ r.pattern.extractLsb' 5 3 = 0#3 ∧ r.pattern.extractLsb' 8 8 = 0#8 ∧
      r.pattern.extractLsb' 16 16 = 0#16 := by
  decide

/-- A field is 0 under its mask when it is free or 0. -/
theorem and_fieldMask_eq_zero_iff {n : Nat} (x : BitVec n) (free : Prop) [Decidable free] :
    x &&& (if free then 0#n else BitVec.allOnes n) = 0#n ↔ (x ≠ 0#n → free) := by
  by_cases h : free <;> simp [h]

/-- A word matches a row when OP is the row's and no must-be-zero bit is set: the reserved bits are 0, and so are M, B and
L where OP is not that of READYM, WRCHAR and WRBYTES. -/
theorem row_matches_iff_fields {r : Row} (hr : r ∈ opcodeTable) (cw : Word) :
    cw &&& r.mask = r.pattern ↔ cw.extractLsb' 0 4 = r.pattern.extractLsb' 0 4 ∧
      (cw.getLsbD 4 = true → cw.extractLsb' 0 4 = 7#4) ∧ cw.extractLsb' 5 3 = 0#3 ∧
      (cw.extractLsb' 8 8 ≠ 0#8 → cw.extractLsb' 0 4 = 3#4) ∧
      (cw.extractLsb' 16 16 ≠ 0#16 → cw.extractLsb' 0 4 = 4#4) := by
  obtain ⟨⟨hop, hm, hres, hb, hl⟩, pm, pres, pb, pl⟩ := opcodeTable_fields r hr
  simp only [word_eq_iff_fields, BitVec.extractLsb'_and, BitVec.getLsbD_and, hop, hm, hres, hb, hl, pm, pres, pb, pl,
    BitVec.and_allOnes, and_fieldMask_eq_zero_iff]
  refine and_congr_right fun h => ?_
  simp [h]

/-- R82: the rows are those of OP 1 to 7. -/
theorem exists_row_of_op_iff (op : BitVec 4) :
    (∃ r ∈ opcodeTable, op = r.pattern.extractLsb' 0 4) ↔ op ≠ 0#4 ∧ op.toNat < 8 := by
  revert op
  decide

/-- The legal words of R86, by their fields. -/
theorem exists_row_matches_iff_fields (cw : Word) :
    (∃ r ∈ opcodeTable, cw &&& r.mask = r.pattern) ↔ (cw.extractLsb' 0 4 ≠ 0#4 ∧ (cw.extractLsb' 0 4).toNat < 8) ∧
      (cw.getLsbD 4 = true → cw.extractLsb' 0 4 = 7#4) ∧ cw.extractLsb' 5 3 = 0#3 ∧
      (cw.extractLsb' 8 8 ≠ 0#8 → cw.extractLsb' 0 4 = 3#4) ∧
      (cw.extractLsb' 16 16 ≠ 0#16 → cw.extractLsb' 0 4 = 4#4) := by
  rw [← exists_row_of_op_iff]
  constructor
  · rintro ⟨r, hr, h⟩
    obtain ⟨hop, hrest⟩ := (row_matches_iff_fields hr cw).1 h
    exact ⟨⟨r, hr, hop⟩, hrest⟩
  · rintro ⟨⟨r, hr, hop⟩, hrest⟩
    exact ⟨r, hr, (row_matches_iff_fields hr cw).2 ⟨hop, hrest⟩⟩

/-- R163: what a refusal for an illegal word leaves in STATUS. -/
theorem keepFirst_illegal (st : Status) :
    st.keepFirst .illegal = { st with fault := if st.fault = 0#3 then 1#3 else st.fault } := by
  unfold Status.keepFirst
  split <;> rfl

/-! ### The statements -/

/-- Settles O3: `decode_eq_ok_iff`, with the table written out. -/
theorem decoderFollowsTheTable : Obligations.DecoderFollowsTheTable := by
  intro c i
  rw [decode_eq_ok_iff]
  simp only [opcodeTable, List.mem_cons, List.not_mem_nil, or_false, exists_eq_or_imp, exists_eq_left]
  exact Iff.rfl

/-- Settles O4: a word is legal when it matches a row, and the fields decide that; an illegal offer is refused. -/
theorem illegalWordsAreRefused : Obligations.IllegalWordsAreRefused := by
  intro c
  constructor
  · rw [decode_error_iff, exists_row_matches_iff_fields, ← not_lt]
    tauto
  · intro s rest e hd hr hp ho
    rw [step_illegal hr hp ho hd]
    simp [raiseFault, takeOffer, keepFirst_illegal]

end Sys2Proof.Machine
end

section
/-! PROOFS. The mode, ready and idle predicates (40_mode_and_ready.md rules R100 to R102), and DETECT, READY and READYM
from the offer to the response (R103 to R107). -/

namespace Sys2Proof.Machine

/-! ### The predicates -/

theorem b2w_decide (p : Prop) [Decidable p] : b2w (decide p) = if p then 1#32 else 0#32 := by
  by_cases h : p <;> simp [b2w, h]

theorem flagSet_iff (mask w : Word) : flagSet mask w = true ↔ w &&& mask ≠ 0#32 := by
  simp [flagSet]

theorem fifoThresholdMode_iff (feMask teMask wfe wte : Word) :
    fifoThresholdMode feMask teMask wfe wte = true ↔ wfe &&& feMask ≠ 0#32 ∧ wte &&& teMask ≠ 0#32 := by
  rw [fifoThresholdMode, Bool.and_eq_true, flagSet_iff, flagSet_iff]

theorem modeOf_eq_fifo_iff (fe te : Bool) : modeOf fe te = .fifo ↔ (fe && te) = true := by
  cases h : fe && te <;> simp [modeOf, h]

/-- Of the two modes the one that is not FIFO is LEGACY (R100). -/
theorem beq_legacy (m : Mode) : (m == .legacy) = decide (¬m = .fifo) := by cases m <;> rfl

theorem ofBit_beq_legacy (b : Bool) : (Mode.ofBit b == .legacy) = !b := by cases b <;> rfl

/-- R104: the word a ready check reports. -/
theorem b2w_ready (m : Mode) (w : Word) :
    b2w (ready m w) = if w.getLsbD 5 = (m == .legacy) then 1#32 else 0#32 := by
  rw [ready_eq, b2w_decide]

/-! ### A command from its offer on -/

/-- A command whose DATA has the length it asks for and whose BASE is aligned is well-formed (R85, R57). -/
theorem wellFormed_of_length_of_aligned {i : Instr} (hdata : i.data.length = i.payloadLength)
    (hbase : i.base.extractLsb' 0 2 = 0#2) : i.wellFormed = true := by
  rw [Instr.wellFormed, i.payloadFits_iff.2 hdata, i.baseAligned_iff.2 hbase, Bool.and_self]

/-- In `IDLE`, and with no reset, an offer of a well-formed command is latched and its acceptance action done. -/
theorem step_accepts {s : State} {c : Command} {rest : List Command} {i : Instr} (hr : s.resetReq = false)
    (hp : s.phase = .idle) (ho : s.offers = c :: rest) (hd : decode c = .ok i) (hw : i.wellFormed = true) :
    step s = .next (acceptAction i (latch i (takeOffer c rest s))) := by
  rw [step_offered hr hp ho hd, accept_of_wellFormed hw]

/-- R103: `FLAG_FE` is one step, the same for every command that enters it. -/
theorem exec_flagFe {i : Instr} {s : State} (hi : .flagFe ∈ i.phases) (hp : s.phase = .flagFe) :
    exec i s = .next (stepFlagFe s) := by
  cases i with
  | detect | ready | wrchar | wrbytes => simp [exec, execDetect, execReady, execWrchar, execWrbytes, hp]
  | flush | setup | readym => simp [Instr.phases] at hi

/-- The state in which a command that detects the mode stands in `FLAG_TE`: offered as c, accepted in s, FE read. -/
def atFlagTe (i : Instr) (c : Command) (rest : List Command) (s : State) : State :=
  stepFlagFe (goTo .flagFe (latch i (takeOffer c rest s)))

/-- Two steps after its offer a command that detects the mode stands in `FLAG_TE` (R162, R103). -/
theorem run_two_atFlagTe {s : State} {c : Command} {rest : List Command} {i : Instr} (hr : s.resetReq = false)
    (hp : s.phase = .idle) (ho : s.offers = c :: rest) (hd : decode c = .ok i) (hw : i.wellFormed = true)
    (hi : .flagFe ∈ i.phases) (hact : ∀ t, acceptAction i t = goTo .flagFe t) :
    run 2 s = .next (atFlagTe i c rest s) := by
  have haccept := step_accepts hr hp ho hd hw
  rw [hact] at haccept
  have hfe : step (goTo .flagFe (latch i (takeOffer c rest s))) = .next (atFlagTe i c rest s) :=
    (step_latched (by simpa using hr) (by simp) rfl).trans (exec_flagFe hi rfl)
  rw [run_succ haccept, run_succ hfe, run]

/-- In `FLAG_TE` the accepted command goes on. -/
theorem step_atFlagTe (i : Instr) (c : Command) (rest : List Command) {s : State} (hr : s.resetReq = false) :
    step (atFlagTe i c rest s) = exec i (atFlagTe i c rest s) :=
  step_latched (s := atFlagTe i c rest s) hr (by simp [atFlagTe]) rfl

/-- A command in `FLAG_TE` has read FE, at BASE + 0x98, and nothing else. -/
theorem atFlagTe_trace (i : Instr) (c : Command) (rest : List Command) (s : State) :
    (atFlagTe i c rest s).trace = s.trace ++ [.accept c, .rd (i.base + 0x98#32) (s.answerAt 0)] := by
  simp [atFlagTe, State.addr, State.answer, latchOf, Const.offFe]

@[simp] theorem atFlagTe_answerAt (i : Instr) (c : Command) (rest : List Command) (s : State) (k : Nat) :
    (atFlagTe i c rest s).answerAt k = s.answerAt (k + 1) := by
  simp [atFlagTe]

/-- R100, R103: the mode comes from the first two answers, FE then TE, and needs both flags. -/
theorem atFlagTe_detected_iff (i : Instr) (c : Command) (rest : List Command) (s : State) :
    (atFlagTe i c rest s).detected = .fifo ↔
      s.answerAt 0 &&& s.params.feMask ≠ 0#32 ∧ s.answerAt 1 &&& s.params.teMask ≠ 0#32 := by
  rw [State.detected, State.answer, atFlagTe_answerAt, modeOf_eq_fifo_iff, Bool.and_eq_true, flagSet_iff]
  exact and_congr_left' (flagSet_iff _ _)

/-- The step `FLAG_TE` adds the read of TE, at BASE + 0xA0. -/
theorem readTe_atFlagTe_trace (i : Instr) (c : Command) (rest : List Command) (s : State) :
    (readTe (atFlagTe i c rest s)).trace =
      s.trace ++ [.accept c, .rd (i.base + 0x98#32) (s.answerAt 0), .rd (i.base + 0xA0#32) (s.answerAt 1)] := by
  rw [readTe_trace, atFlagTe_trace, State.answer, atFlagTe_answerAt]
  simp [atFlagTe, State.addr, latchOf, Const.offTe]

/-- With a mode latched the step `POLL_ONCE` reads LSR and completes (R104). -/
theorem stepPollOnce_of_mode {s : State} {m : Mode} (hm : s.mode = some m) :
    stepPollOnce s = .next (complete (b2w (ready m s.answer)) (busRead (s.addr Const.offLsr) s)) := by
  simp [stepPollOnce, hm]

/-- R104: `POLL_ONCE` is one step, the same for READY and READYM. -/
theorem exec_pollOnce {i : Instr} {s : State} {m : Mode} (hi : .pollOnce ∈ i.phases) (hp : s.phase = .pollOnce)
    (hm : s.mode = some m) :
    exec i s = .next (complete (b2w (ready m s.answer)) (busRead (s.addr Const.offLsr) s)) := by
  cases i with
  | ready | readym => simp [exec, execReady, execReadym, hp, stepPollOnce_of_mode hm]
  | detect | wrchar | wrbytes | flush | setup => simp [Instr.phases] at hi

/-- The last step of READY and of READYM (R104). -/
theorem step_pollOnce {i : Instr} {s : State} {m : Mode} (hr : s.resetReq = false) (hp : s.phase = .pollOnce)
    (hc : s.cmd = latchOf i) (hi : .pollOnce ∈ i.phases) (hm : s.mode = some m) :
    step s = .next (complete (b2w (ready m s.answer)) (busRead (s.addr Const.offLsr) s)) :=
  (step_latched hr (by simp [hp]) hc).trans (exec_pollOnce hi hp hm)

/-! ### The words of the three commands (R84) -/

theorem decode_detect (base : Word) (data : List Byte) :
    decode ⟨0x00000001#32, base, data⟩ = .ok (.detect base data) := by
  simp [decode_eq]

theorem decode_ready (base : Word) (data : List Byte) :
    decode ⟨0x00000002#32, base, data⟩ = .ok (.ready base data) := by
  simp [decode_eq]

theorem decode_readym (fifo : Bool) (base : Word) (data : List Byte) :
    decode ⟨if fifo then 0x00000017#32 else 0x00000007#32, base, data⟩ =
      .ok (.readym (Mode.ofBit fifo) base data) := by
  cases fifo <;> simp [decode_eq, fieldM]

/-! ### The statements -/

/-- Settles O36: bit 5 by its polarity in each mode; `ready_eq` reads no other bit. -/
theorem readyPolarityDependsOnTheMode : Obligations.ReadyPolarityDependsOnTheMode := by
  refine ⟨fun w => ⟨?_, ?_⟩, fun m w w' h => ?_⟩
  · simp [ready, Const.bitTxr]
  · simp [ready, Const.bitTxr]
  · rw [ready_eq, ready_eq, h]

/-- Settles O37: TEMT is bit 6, and the predicate is that bit. -/
theorem idleDependsOnBitSixAlone : Obligations.IdleDependsOnBitSixAlone :=
  ⟨fun _ => Iff.rfl, fun _ _ h => h⟩

/-- Settles O38: a conjunction of the two flags, in the predicate and in the mode. -/
theorem modeNeedsBothFlags : Obligations.ModeNeedsBothFlags := fun feMask teMask wfe wte =>
  ⟨fifoThresholdMode_iff feMask teMask wfe wte, modeOf_eq_fifo_iff _ _, rfl, rfl⟩

/-- Settles O14: `POLL_ONCE` belongs to both commands, and its word is that of the ready predicate. -/
theorem readyCheckReadsLsrOnce : Obligations.ReadyCheckReadsLsrOnce := by
  intro s m x base data hp hm w r i hi
  have hphase : Phase.pollOnce ∈ i.phases := by
    simp only [List.mem_cons, List.not_mem_nil, or_false] at hi
    obtain rfl | rfl := hi <;> simp [Instr.phases]
  rw [exec_pollOnce hphase hp hm, b2w_ready]
  simp [complete, goTo, busRead, State.addr, State.answer, Const.offLsr, w, r]

/-- Settles O46: acceptance, FLAG_FE, and FLAG_TE, which completes. -/
theorem detectReportsTheMode : Obligations.DetectReportsTheMode := by
  intro s base rest hr hp hbase ho fifo r
  let c : Command := ⟨0x00000001#32, base, []⟩
  let u := atFlagTe (.detect base []) c rest s
  have hrun : run 2 s = .next u :=
    run_two_atFlagTe hr hp ho (decode_detect base []) (wellFormed_of_length_of_aligned rfl hbase)
      (by simp [Instr.phases]) (fun _ => rfl)
  have hte : step u = .next (complete (b2w (u.detected == .fifo)) (readTe u)) := step_atFlagTe _ c rest hr
  have hres : b2w (u.detected == .fifo) = r := by
    rw [beq_eq_decide, b2w_decide]
    exact if_congr (atFlagTe_detected_iff _ c rest s) rfl rfl
  rw [hres] at hte
  refine ⟨_, (run_add hrun 1).trans (run_succ hte 0), rfl, rfl, rfl, rfl, rfl, ?_⟩
  rw [complete_trace, readTe_atFlagTe_trace]
  simp [Instr.base, c]

/-- Settles O47: acceptance, FLAG_FE, FLAG_TE, and POLL_ONCE in the mode just detected. -/
theorem readyReportsTheLiveMode : Obligations.ReadyReportsTheLiveMode := by
  intro s base rest hr hp hbase ho fifo r
  let c : Command := ⟨0x00000002#32, base, []⟩
  let u := atFlagTe (.ready base []) c rest s
  let v := goTo .pollOnce (readTe u)
  have hrun : run 2 s = .next u :=
    run_two_atFlagTe hr hp ho (decode_ready base []) (wellFormed_of_length_of_aligned rfl hbase)
      (by simp [Instr.phases]) (fun _ => rfl)
  have hte : step u = .next v := step_atFlagTe _ c rest hr
  have hpoll : step v = .next (complete (b2w (ready u.detected v.answer)) (busRead (v.addr Const.offLsr) v)) :=
    step_pollOnce (i := .ready base []) hr rfl rfl (by simp [Instr.phases]) rfl
  have hanswer : v.answer = s.answerAt 2 := by simp [v, u, State.answer]
  have hres : b2w (ready u.detected v.answer) = r := by
    rw [b2w_ready, beq_legacy, hanswer, decide_eq_decide.2 (not_congr (atFlagTe_detected_iff _ c rest s))]
  rw [hres] at hpoll
  refine ⟨_, (run_add hrun 2).trans ((run_succ hte 1).trans (run_succ hpoll 0)), rfl, rfl, rfl, rfl, rfl, ?_⟩
  rw [complete_trace, busRead_trace, hanswer, goTo_trace, readTe_atFlagTe_trace]
  simp [Instr.base, c, v, u, atFlagTe, State.addr, latchOf, Const.offLsr]

/-- Settles O48: acceptance, which latches the operand as the mode, and POLL_ONCE. -/
theorem readymReportsTheGivenMode : Obligations.ReadymReportsTheGivenMode := by
  intro s fifo base rest hr hp hbase ho r
  let c : Command := ⟨if fifo then 0x00000017#32 else 0x00000007#32, base, []⟩
  let i : Instr := .readym (Mode.ofBit fifo) base []
  let u := acceptAction i (latch i (takeOffer c rest s))
  have haccept : step s = .next u :=
    step_accepts hr hp ho (decode_readym fifo base []) (wellFormed_of_length_of_aligned rfl hbase)
  have hpoll : step u = .next (complete (b2w (ready (Mode.ofBit fifo) u.answer)) (busRead (u.addr Const.offLsr) u)) :=
    step_pollOnce (i := i) hr rfl rfl (by simp [i, Instr.phases]) rfl
  have hanswer : u.answer = s.answerAt 0 := rfl
  have hres : b2w (ready (Mode.ofBit fifo) u.answer) = r := by rw [b2w_ready, ofBit_beq_legacy, hanswer]
  rw [hres] at hpoll
  refine ⟨_, (run_succ haccept 1).trans (run_succ hpoll 0), rfl, rfl, rfl, rfl, rfl, ?_⟩
  rw [complete_trace, busRead_trace, hanswer]
  simp [u, i, c, acceptAction, State.addr, latchOf, Instr.base, Const.offLsr]

end Sys2Proof.Machine
end

section
/-! PROOFS. WRCHAR and WRBYTES (41_transmit.md): a WRBYTES with L = 0, the byte write, and a transmit poll that is never
ready (R124, R121, R129). -/

namespace Sys2Proof.Machine

/-! ### The acceptance of WRBYTES -/

/-- R85: a DATA of another length than the command asks for is refused, whatever BASE is. -/
theorem accept_of_length_ne {i : Instr} (hdata : i.data.length ≠ i.payloadLength) (action : State → State)
    (s : State) : accept i action s = raiseFault .length s :=
  if_neg (mt i.payloadFits_iff.1 hdata)

/-- R57: of the commands with the DATA they ask for, one with a misaligned BASE is refused. -/
theorem accept_of_misaligned {i : Instr} (hdata : i.data.length = i.payloadLength)
    (hbase : i.base.extractLsb' 0 2 ≠ 0#2) (action : State → State) (s : State) :
    accept i action s = raiseFault .align s :=
  (if_pos (i.payloadFits_iff.2 hdata)).trans (if_neg (mt i.baseAligned_iff.1 hbase))

/-- The word of WRBYTES with L = 0 (R84). -/
theorem decode_wrbytes_zero (base : Word) (data : List Byte) :
    decode ⟨0x00000004#32, base, data⟩ = .ok (.wrbytes 0#16 base data) := by
  simp [decode_eq, fieldL]

/-! ### The byte write -/

/-- R121, R165: the whole effect of the last byte write. -/
theorem complete_writeThr (v : Byte) (s : State) :
    complete 0#32 (writeThr v s) = { s with
      phase := .idle, mode := none, fe := false, idx := s.idx + 1, result := 0#32
      status := { s.status with busy := false }
      trace := s.trace ++ [.wr (s.cmd.base + 0x00#32) (.byte v), .resp .ok 0#32] } := by
  simp [complete, goTo, writeThr, busWrite, State.addr, Const.offThr]

theorem exec_wrchar_writeThr {s : State} (hp : s.phase = .writeThr) (b : Byte) (base : Word) (data : List Byte) :
    exec (.wrchar b base data) s = .next (complete 0#32 (writeThr s.cmd.b s)) := by
  simp [exec, execWrchar, hp]

theorem exec_wrbytes_writeThr {s : State} {v : Byte} (hp : s.phase = .writeThr) (hv : s.cmd.data[s.idx]? = some v)
    (len : Len) (base : Word) (data : List Byte) :
    exec (.wrbytes len base data) s =
      .next (if s.idx + 1 = s.cmd.len.toNat then complete 0#32 (writeThr v s) else goTo .pollTx (writeThr v s)) := by
  simp [exec, execWrbytes, hp, hv]

/-! ### The transmit poll -/

/-- With a mode latched the step `POLL_TX` reads LSR, and goes on to the write when ready (R120). -/
theorem stepPollTx_of_mode {s : State} {m : Mode} (hm : s.mode = some m) :
    stepPollTx s =
      .next (goTo (if ready m s.answer then .writeThr else .pollTx) (busRead (s.addr Const.offLsr) s)) := by
  simp [stepPollTx, hm]

/-- R120: `POLL_TX` is one step, the same for WRCHAR and WRBYTES. -/
theorem exec_pollTx {i : Instr} {s : State} (hi : .pollTx ∈ i.phases) (hp : s.phase = .pollTx) :
    exec i s = stepPollTx s := by
  cases i with
  | wrchar | wrbytes => simp [exec, execWrchar, execWrbytes, hp]
  | detect | ready | flush | setup | readym => simp [Instr.phases] at hi

/-- R82: a latch with the OP of WRCHAR or of WRBYTES holds a command that polls. -/
theorem exists_instr_of_transmit_op {c : Cmd} (hop : c.op = 3#4 ∨ c.op = 4#4) :
    ∃ i, c.instr? = some i ∧ .pollTx ∈ i.phases := by
  obtain hop | hop := hop
  · exact ⟨.wrchar c.b c.base c.data, by simp [Cmd.instr?, hop], by simp [Instr.phases]⟩
  · exact ⟨.wrbytes c.len c.base c.data, by simp [Cmd.instr?, hop], by simp [Instr.phases]⟩

/-- A transmit's step in `POLL_TX` (R120). -/
theorem step_pollTx {s : State} {m : Mode} (hr : s.resetReq = false) (hp : s.phase = .pollTx) (hm : s.mode = some m)
    (hop : s.cmd.op = 3#4 ∨ s.cmd.op = 4#4) :
    step s = .next (goTo (if ready m s.answer then .writeThr else .pollTx) (busRead (s.addr Const.offLsr) s)) := by
  obtain ⟨i, hi, hphase⟩ := exists_instr_of_transmit_op hop
  rw [step_running hr (by simp [hp]) hi, exec_pollTx hphase hp, stepPollTx_of_mode hm]

/-- A transmit whose next answer is not ready polls again (R120). -/
theorem step_pollTx_not_ready {s : State} {m : Mode} (hr : s.resetReq = false) (hp : s.phase = .pollTx)
    (hm : s.mode = some m) (hop : s.cmd.op = 3#4 ∨ s.cmd.op = 4#4) (hready : ready m s.answer = false) :
    step s = .next (goTo .pollTx (busRead (s.addr Const.offLsr) s)) := by
  simp [step_pollTx hr hp hm hop, hready]

/-! ### The statements -/

/-- Settles O56, by induction on the number of answers: a not-ready answer leads back to `POLL_TX`, with one more read. -/
theorem transmitPollNeverTimesOut : Obligations.TransmitPollNeverTimesOut := by
  intro n
  induction n with
  | zero =>
    intro s m _ hp hm _ _
    exact ⟨s, rfl, hp, hm, rfl, by simp [readTrace]⟩
  | succ n ih =>
    intro s m hr hp hm hop hready
    let u := goTo .pollTx (busRead (s.addr Const.offLsr) s)
    have hstep : step s = .next u := step_pollTx_not_ready hr hp hm hop (hready 0 n.succ_pos)
    have hanswers (k : Nat) : u.answerAt k = s.answerAt (k + 1) := by simp [u]
    have hready' : ∀ k < n, ready m (u.answerAt k) = false := fun k hk => by
      rw [hanswers]
      exact hready (k + 1) (by omega)
    obtain ⟨t, hrun, hphase, hmode, hoffers, htrace⟩ := ih u m hr rfl hm hop hready'
    refine ⟨t, (run_succ hstep n).trans hrun, hphase, hmode, hoffers, ?_⟩
    calc t.trace
        = u.trace ++ readTrace (s.cmd.base + 0x14#32) u.answerAt 0 n := htrace
      _ = (s.trace ++ [.rd (s.cmd.base + 0x14#32) (s.answerAt 0)]) ++
            readTrace (s.cmd.base + 0x14#32) s.answerAt 1 n :=
          congrArg _ (readTrace_congr (fun k => by rw [hanswers, Nat.add_comm]) _ n)
      _ = s.trace ++ readTrace (s.cmd.base + 0x14#32) s.answerAt 0 (n + 1) := by simp [readTrace_succ]

/-- Settles O12: the two checks of acceptance, and an acceptance action that completes when L is 0. -/
theorem zeroLengthWriteCompletesAtAcceptance : Obligations.ZeroLengthWriteCompletesAtAcceptance := by
  intro s base data rest hr hp ho
  have hdecode := decode_wrbytes_zero base data
  refine ⟨fun hdata hbase => ?_, fun hdata => ?_, fun hdata hbase => ?_⟩
  · subst hdata
    have haccept := step_accepts hr hp ho hdecode (wellFormed_of_length_of_aligned rfl hbase)
    refine ⟨_, haccept, rfl, rfl, rfl, rfl, rfl, rfl, ?_⟩
    simp [acceptAction]
  · have hlength : (Instr.wrbytes 0#16 base data).data.length ≠ (Instr.wrbytes 0#16 base data).payloadLength :=
      mt List.length_eq_zero_iff.1 hdata
    refine ⟨_, step_offered hr hp ho hdecode, ?_⟩
    simp [accept_of_length_ne hlength]
  · subst hdata
    refine ⟨_, step_offered hr hp ho hdecode, ?_⟩
    simp [accept_of_misaligned (i := .wrbytes 0#16 base []) rfl hbase]

/-- Settles O16: one byte is written, and WRCHAR ends there; WRBYTES ends at its last byte and else polls again. -/
theorem byteWriteStoresOneByte : Obligations.ByteWriteStoresOneByte := by
  intro s b len base data hp
  refine ⟨?_, fun v hv => ⟨fun hlast => ?_, fun hmore => ?_⟩⟩
  · rw [exec_wrchar_writeThr hp, complete_writeThr]
  · rw [exec_wrbytes_writeThr hp hv, if_pos hlast, complete_writeThr]
  · rw [exec_wrbytes_writeThr hp hv, if_neg hmore]
    rfl

end Sys2Proof.Machine
end

section
/-! PROOFS. FLUSH's idle poll and SETUP (42_drain_and_setup.md): the step of each, and SETUP from the offer to the response
(R140, R144, R145). -/

namespace Sys2Proof.Machine

/-! ### The idle poll -/

theorem exec_flush_pollIdle {s : State} (hp : s.phase = .pollIdle) (base : Word) (data : List Byte) :
    exec (.flush base data) s = .next (stepPollIdle s) := by
  simp [exec, execFlush, hp]

theorem stepPollIdle_of_idle {s : State} (h : idle s.answer = true) :
    stepPollIdle s = complete 0#32 (busRead (s.addr Const.offLsr) s) :=
  if_pos h

theorem stepPollIdle_of_not_idle {s : State} (h : idle s.answer = false) :
    stepPollIdle s = goTo .pollIdle (busRead (s.addr Const.offLsr) s) :=
  if_neg (Bool.eq_false_iff.1 h)

/-! ### The setup write -/

theorem exec_setup_setupStep {s : State} (hp : s.phase = .setupStep) (base : Word) (data : List Byte) :
    exec (.setup base data) s = stepSetup s := by
  simp [exec, execSetup, hp]

/-- With an entry left the step `SETUP_STEP` writes it, and completes with BASE if it was the last (R144). -/
theorem stepSetup_of_entry {s : State} {e : SetupEntry} (he : s.params.setupSeq.entries[s.sidx]? = some e) :
    stepSetup s = .next (if s.sidx + 1 = s.params.setupSeq.entries.length then complete s.cmd.base (writeEntry e s)
      else goTo .setupStep (writeEntry e s)) := by
  simp [stepSetup, he]

/-- SETUP's step in `SETUP_STEP` (R144). -/
theorem step_setupStep {s : State} {base : Word} {data : List Byte} {e : SetupEntry} (hr : s.resetReq = false)
    (hp : s.phase = .setupStep) (hc : s.cmd = latchOf (.setup base data))
    (he : s.params.setupSeq.entries[s.sidx]? = some e) :
    step s = .next (if s.sidx + 1 = s.params.setupSeq.entries.length then complete s.cmd.base (writeEntry e s)
      else goTo .setupStep (writeEntry e s)) := by
  rw [step_latched hr (by simp [hp]) hc, exec_setup_setupStep hp, stepSetup_of_entry he]

/-! ### The writes of a SETUP -/

/-- The state s, a SETUP's at its start, with the first n entries of SETUP_SEQ written. -/
def withWritten (n : Nat) (s : State) : State :=
  { s with sidx := n, trace := s.trace ++ setupTrace s.cmd.base (s.params.setupSeq.entries.take n) }

theorem withWritten_zero {s : State} (h : s.sidx = 0) : withWritten 0 s = s := by
  rw [withWritten, List.take_zero, setupTrace, List.map_nil, List.append_nil, ← h]

/-- Writing the next entry makes one more of them written. -/
theorem writeEntry_withWritten {n : Nat} {s : State} {e : SetupEntry}
    (he : s.params.setupSeq.entries[n]? = some e) : writeEntry e (withWritten n s) = withWritten (n + 1) s := by
  simp [writeEntry, busWrite, withWritten, State.addr, setupTrace, List.take_add_one, he]

/-- A state already in phase p, with BUSY as p has it, is not changed by `phase <- p`. -/
theorem goTo_self {p : Phase} {s : State} (hp : s.phase = p) (hb : s.status.busy = (p != .idle)) : goTo p s = s := by
  subst hp
  rw [goTo, ← hb]

/-- A SETUP's step after n writes makes one more write, and completes with BASE when that is all of them (R144). -/
theorem step_withWritten {n : Nat} {s : State} {base : Word} {data : List Byte} (hr : s.resetReq = false)
    (hp : s.phase = .setupStep) (hb : s.status.busy = true) (hc : s.cmd = latchOf (.setup base data))
    (hn : n < s.params.setupSeq.entries.length) :
    step (withWritten n s) = .next (if n + 1 = s.params.setupSeq.entries.length then
      complete s.cmd.base (withWritten (n + 1) s) else withWritten (n + 1) s) := by
  have he : s.params.setupSeq.entries[n]? = some s.params.setupSeq.entries[n] := List.getElem?_eq_getElem hn
  have hstep := step_setupStep (s := withWritten n s) hr hp hc he
  have hself : goTo .setupStep (withWritten (n + 1) s) = withWritten (n + 1) s := goTo_self hp hb
  rwa [writeEntry_withWritten he, hself] at hstep

/-- As long as an entry is left, n steps of a SETUP have made the first n writes and nothing else (R145). -/
theorem run_withWritten {n : Nat} {s : State} {base : Word} {data : List Byte} (hr : s.resetReq = false)
    (hp : s.phase = .setupStep) (hb : s.status.busy = true) (hc : s.cmd = latchOf (.setup base data))
    (h0 : s.sidx = 0) (hn : n < s.params.setupSeq.entries.length) : run n s = .next (withWritten n s) := by
  induction n with
  | zero => rw [withWritten_zero h0, run]
  | succ n ih =>
    have hstep := step_withWritten hr hp hb hc (Nat.lt_of_succ_lt hn)
    rw [if_neg hn.ne] at hstep
    rw [run_add (ih (Nat.lt_of_succ_lt hn)) 1, run_succ hstep, run]

/-- In as many steps as SETUP_SEQ has entries a SETUP writes them all and completes with BASE (R145). -/
theorem run_setup_to_end {s : State} {base : Word} {data : List Byte} (hr : s.resetReq = false)
    (hp : s.phase = .setupStep) (hb : s.status.busy = true) (hc : s.cmd = latchOf (.setup base data))
    (h0 : s.sidx = 0) :
    run s.params.setupSeq.entries.length s =
      .next (complete s.cmd.base (withWritten s.params.setupSeq.entries.length s)) := by
  obtain ⟨n, hn⟩ := Nat.exists_eq_add_one.2 (setupSeq_pos s.params.setupSeq)
  have hlast : n < s.params.setupSeq.entries.length := by omega
  have hstep := step_withWritten hr hp hb hc hlast
  rw [if_pos hn.symm] at hstep
  rw [hn, run_add (run_withWritten hr hp hb hc h0 hlast) 1, run_succ hstep, run]

/-- The word of SETUP (R84). -/
theorem decode_setup (base : Word) (data : List Byte) :
    decode ⟨0x00000006#32, base, data⟩ = .ok (.setup base data) := by
  simp [decode_eq]

/-! ### The statements -/

/-- Settles O53: acceptance, which enters `SETUP_STEP` with `sidx` at 0, and then the writes to the end. -/
theorem setupWritesTheWholeSequence : Obligations.SetupWritesTheWholeSequence := by
  intro s base rest hr hp hbase ho
  let c : Command := ⟨0x00000006#32, base, []⟩
  let u := goTo .setupStep (latch (.setup base []) (takeOffer c rest s))
  have haccept : step s = .next u :=
    step_accepts hr hp ho (decode_setup base []) (wellFormed_of_length_of_aligned rfl hbase)
  have hwrites := run_setup_to_end (s := u) (base := base) (data := []) hr rfl rfl rfl rfl
  have hrun := (run_succ haccept u.params.setupSeq.entries.length).trans hwrites
  rw [Nat.add_comm] at hrun
  refine ⟨_, hrun, rfl, rfl, rfl, rfl, rfl, rfl, rfl, ?_⟩
  simp [withWritten, u, c, latchOf, Instr.base]

/-- Settles O17: one LSR read, and bit 6 of its answer decides between the completion and one more poll. -/
theorem idlePollReadsLsrUntilIdle : Obligations.IdlePollReadsLsrUntilIdle := by
  intro s base data hp w
  rw [exec_flush_pollIdle hp]
  refine ⟨fun hidle => ?_, fun hbusy => ?_⟩
  · rw [stepPollIdle_of_idle hidle]
    simp [complete, goTo, busRead, State.addr, State.answer, Const.offLsr, w]
  · rw [stepPollIdle_of_not_idle hbusy]
    rfl

/-- Settles O18: one entry is written, and SETUP ends with BASE at the last one and else goes on. -/
theorem setupStepWritesOneEntry : Obligations.SetupStepWritesOneEntry := by
  intro s base data e hp he
  rw [exec_setup_setupStep hp, stepSetup_of_entry he]
  refine ⟨fun hlast => ?_, fun hmore => ?_⟩
  · rw [if_pos hlast]
    simp [complete, goTo, writeEntry, busWrite, State.addr]
  · rw [if_neg hmore]
    rfl

end Sys2Proof.Machine
end

section
/-! PROOFS. The two ends of an offer's acceptance and the normal end of a command (60_exceptions.md rules R162, R163 and
R165): the whole next state of each. -/

namespace Sys2Proof.Machine

/-! ### Acceptance -/

/-- R162, R163: the whole next state of an offer refused in `IDLE`. -/
theorem raiseFault_takeOffer (f : FaultCode) (c : Command) (rest : List Command) (s : State) :
    raiseFault f (takeOffer c rest s) = { s with
      offers := rest
      result := 0#32
      status := { s.status with fault := if s.status.fault = 0#3 then f.code else s.status.fault }
      trace := s.trace ++ [.accept c, .resp (.fault f) 0#32] } := by
  by_cases hfault : s.status.fault = 0#3 <;> simp [raiseFault, takeOffer, Status.keepFirst, hfault]

/-- R85: how many DATA bytes a command asks for, read from its latch. -/
theorem payloadLength_eq (i : Instr) :
    i.payloadLength = if (latchOf i).op = 4#4 then (latchOf i).len.toNat else 0 := by
  cases i <;> rfl

/-- R85: the length check of a decoded command, on the fields of its word. -/
theorem length_ne_payloadLength_iff {c : Command} {i : Instr} (hd : decode c = .ok i) :
    i.data.length ≠ i.payloadLength ↔
      (c.cw.extractLsb' 0 4 = 4#4 ∧ c.data.length ≠ (c.cw.extractLsb' 16 16).toNat) ∨
      (c.cw.extractLsb' 0 4 ≠ 4#4 ∧ c.data.length ≠ 0) := by
  have hdata : i.data = (latchOf i).data := rfl
  rw [payloadLength_eq, hdata, latchOf_of_decode hd]
  by_cases hop : c.cw.extractLsb' 0 4 = 4#4 <;> simp [hop]

theorem base_of_decode {c : Command} {i : Instr} (hd : decode c = .ok i) : i.base = c.base :=
  congrArg Cmd.base (latchOf_of_decode hd)

/-- The phase in which acceptance leaves the command of a latch (R162); `IDLE` for a WRBYTES with L = 0, which is
complete (R124). -/
def Cmd.firstPhase (k : Cmd) : Phase :=
  if k.op = 1#4 ∨ k.op = 2#4 ∨ k.op = 3#4 then .flagFe
  else if k.op = 4#4 then (if k.len = 0#16 then .idle else .flagFe)
  else if k.op = 5#4 then .pollIdle
  else if k.op = 6#4 then .setupStep
  else .pollOnce

/-- The whole effect of latching a command k and doing its acceptance action (R162), from the latch alone. -/
def startOf (k : Cmd) (s : State) : State :=
  { s with
    phase := k.firstPhase
    cmd := k
    fe := false
    idx := 0
    sidx := 0
    mode := if k.op = 7#4 then some (Mode.ofBit k.m) else if k.firstPhase = .idle then none else s.mode
    status := { s.status with busy := k.firstPhase != .idle }
    result := if k.firstPhase = .idle then 0#32 else s.result
    trace := s.trace ++ if k.firstPhase = .idle then [.resp .ok 0#32] else [] }

theorem acceptAction_latch (i : Instr) (s : State) : acceptAction i (latch i s) = startOf (latchOf i) s := by
  cases i with
  | detect | ready | wrchar | flush | setup | readym =>
    simp [acceptAction, startOf, Cmd.firstPhase, latchOf, Instr.op, goTo, latch]
  | wrbytes len base data =>
    by_cases hlen : len = 0#16 <;>
      simp [acceptAction, startOf, Cmd.firstPhase, latchOf, Instr.op, complete, goTo, latch, hlen]

/-! ### The normal end of a command -/

/-- u is s up to the conclusion of a command's step: a bus transaction or an acceptance may have been made, but nothing
has been answered, and what the host reads and offers is as in s. -/
structure Prepares (s u : State) : Prop where
  trace    : ∃ fs, u.trace = s.trace ++ fs ∧ ∀ e ∈ fs, e.isResp = false
  status   : u.status = s.status
  params   : u.params = s.params
  offers   : u.offers = s.offers
  resetReq : u.resetReq = s.resetReq
  cmd      : s.phase ≠ .idle → u.cmd = s.cmd

/-- All a step of a command can do: refuse the offer, or prepare and conclude. -/
theorem exec_refuses_or_concludes {i : Instr} {s t : State} (h : exec i s = .next t) :
    (∃ f, t = raiseFault f s) ∨ ∃ u, Prepares s u ∧ Concludes u t := by
  by_cases hp : s.phase = .idle
  · rw [exec_idle hp] at h
    injection h with h
    subst h
    obtain ⟨-, hacc⟩ | ⟨-, -, hacc⟩ | ⟨-, hacc⟩ := accept_cases i (acceptAction i) s
    · exact .inl ⟨.length, hacc⟩
    · exact .inl ⟨.align, hacc⟩
    · obtain ⟨m, hm⟩ := acceptAction_concludes i (latch i s)
      rw [hacc]
      exact .inr ⟨{ latch i s with mode := m },
        ⟨⟨[], by simp⟩, rfl, rfl, rfl, rfl, fun hne => absurd hp hne⟩, hm⟩
  · obtain ⟨e, u, he, hu, hcmd, hoffers, ht⟩ := exec_running_transaction hp h
    have htrace : ∃ fs, u.trace = s.trace ++ fs ∧ ∀ e ∈ fs, e.isResp = false :=
      ⟨[e], hu.trace, by simp [Event.isResp_of_isBus he]⟩
    exact .inr ⟨u, ⟨htrace, hu.status, hu.params, hoffers, hu.resetReq, fun _ => hcmd⟩, ht⟩

/-- A conclusion that leaves an OK response as the last event is the completion with that response. -/
theorem Concludes.eq_complete {s u t : State} {es : List Event} {r : Word} (h : Concludes u t) (hu : Prepares s u)
    (htrace : t.trace = s.trace ++ es ++ [.resp .ok r]) : t = complete r u ∧ u.trace = s.trace ++ es := by
  cases h with
  | completes r' =>
    obtain ⟨hes, hlast⟩ := List.append_inj' htrace rfl
    obtain rfl : r' = r := by simpa using hlast
    exact ⟨rfl, hes⟩
  | goesOn p hp =>
    obtain ⟨fs, hfs, hnone⟩ := hu.trace
    have hmem : fs = es ++ [.resp .ok r] := by simpa [hfs] using htrace
    simpa using hnone (.resp .ok r) (by simp [hmem])

/-! ### The statements -/

/-- Settles O9: the three refusals, and the acceptance of a well-formed command from its latch. -/
theorem acceptanceFollowsItsRule : Obligations.AcceptanceFollowsItsRule := by
  intro s c rest hr hp ho op badLength refusal p
  have hlength {i : Instr} (hd : decode c = .ok i) : ¬badLength → i.data.length = i.payloadLength := fun h =>
    not_not.1 (mt (length_ne_payloadLength_iff hd).1 h)
  refine ⟨fun e hd => ?illegal, fun i hd hbad => ?length, fun i hd hlen hbase => ?align, fun i hd hlen hbase => ?starts⟩
  case illegal =>
    rw [step_illegal hr hp ho hd, raiseFault_takeOffer]
    rfl
  case length =>
    rw [step_offered hr hp ho hd, accept_of_length_ne ((length_ne_payloadLength_iff hd).2 hbad), raiseFault_takeOffer]
    rfl
  case align =>
    rw [← base_of_decode hd] at hbase
    rw [step_offered hr hp ho hd, accept_of_misaligned (hlength hd hlen) hbase, raiseFault_takeOffer]
    rfl
  case starts =>
    rw [← base_of_decode hd] at hbase
    rw [step_accepts hr hp ho hd (wellFormed_of_length_of_aligned (hlength hd hlen) hbase), acceptAction_latch,
      latchOf_of_decode hd]
    simp [startOf, Cmd.firstPhase, takeOffer, Mode.ofBit, op, p]

/-- Settles O20: of what a step of a command can do, only a completion leaves an OK response. -/
theorem completionHasItsEffect : Obligations.CompletionHasItsEffect := by
  refine ⟨fun r s => rfl, fun i s t es r h htrace => ?_⟩
  obtain ⟨f, rfl⟩ | ⟨u, hu, ht⟩ := exec_refuses_or_concludes h
  · have hlast := (List.append_inj' htrace rfl).2
    simp at hlast
  · obtain ⟨rfl, hes⟩ := ht.eq_complete hu htrace
    have hfault : u.status.fault = s.status.fault := by rw [hu.status]
    exact ⟨⟨u, rfl, hes, hfault, hu.params, hu.offers, hu.resetReq, hu.cmd⟩, rfl, rfl, rfl, rfl, rfl, hfault⟩

end Sys2Proof.Machine
end

section
/-! PROOFS. Reset (70_reset_and_hazards.md rules R180 to R182). -/

namespace Sys2Proof.Machine

/-- Settles O29: the reset step leaves `cmd` at the model's own value (log entry 2) and the offers waiting (log entry 8). -/
theorem resetIsTakenFirst : Obligations.ResetIsTakenFirst := by
  intro s hr
  exact ⟨Cmd.reset, s.offers, step_reset hr⟩

end Sys2Proof.Machine
end

section
/-! PROOFS. The encoder and the decoder (30_encoding.md rules R82 to R89): the word of a command has the fields of the
command's latch, so each of the two undoes the other. -/

namespace Sys2Proof.Machine

/-! ### The fields of an encoded word -/

/-- A field read where it was put. -/
theorem extractLsb'_shiftLeft_same {n : Nat} (x : BitVec n) {k : Nat} (h : k + n ≤ 32) :
    (x.setWidth 32 <<< k : Word).extractLsb' k n = x := by
  ext j hj
  simp [show k + j < 32 by omega, hj]

/-- A field read beside the one that was put. -/
theorem extractLsb'_shiftLeft_beside {n : Nat} (x : BitVec n) {k l m : Nat} (h : l + m ≤ k ∨ k + n ≤ l) :
    (x.setWidth 32 <<< k : Word).extractLsb' l m = 0#m := by
  ext j hj
  obtain h | h := h
  · simp [show l + j < k by omega]
  · simp [BitVec.getLsbD_of_ge x (l + j - k) (by omega)]

/-- R82, R83, R89: the word of a command holds the fields of its latch, and its reserved bits are 0. -/
theorem encodeWord_fields (i : Instr) :
    (encodeWord i).extractLsb' 0 4 = (latchOf i).op ∧ (encodeWord i).getLsbD 4 = (latchOf i).m ∧
      (encodeWord i).extractLsb' 5 3 = 0#3 ∧ (encodeWord i).extractLsb' 8 8 = (latchOf i).b ∧
      (encodeWord i).extractLsb' 16 16 = (latchOf i).len := by
  cases i with
  | detect | ready | flush | setup => simp [encodeWord, latchOf, Instr.op]
  | readym m => cases m <;> simp [encodeWord, latchOf, Instr.op, Mode.bit]
  | wrchar b =>
    simp [encodeWord, latchOf, Instr.op, BitVec.extractLsb'_or, extractLsb'_shiftLeft_same,
      extractLsb'_shiftLeft_beside]
  | wrbytes len =>
    simp [encodeWord, latchOf, Instr.op, BitVec.extractLsb'_or, extractLsb'_shiftLeft_same,
      extractLsb'_shiftLeft_beside]

/-- The latch of a decoded command, when its word is one the encoder wrote. -/
theorem latchOf_of_decode_encode {i j : Instr} (h : decode (encode i) = .ok j) : latchOf j = latchOf i := by
  obtain ⟨hop, hm, -, hb, hlen⟩ := encodeWord_fields i
  rw [latchOf_of_decode h]
  simp only [encode, hop, hm, hb, hlen]
  rfl

/-- R83: the latch loses no operand. -/
theorem latchOf_injective : Function.Injective latchOf := fun i j h => by
  simpa using congrArg Cmd.instr? h

/-- R84, R86: an encoded word is legal. -/
theorem exists_row_matches_encodeWord (i : Instr) : ∃ r ∈ opcodeTable, encodeWord i &&& r.mask = r.pattern := by
  obtain ⟨hop, hm, hres, hb, hlen⟩ := encodeWord_fields i
  rw [exists_row_matches_iff_fields, hop, hm, hres, hb, hlen]
  cases i <;> simp [latchOf, Instr.op]

/-- Settles O1: an encoded word is legal, and the command decoded from it has the latch of the command encoded. -/
theorem decodeOfEncode : Obligations.DecodeOfEncode := by
  intro i
  obtain ⟨r, hr, hmatch⟩ := exists_row_matches_encodeWord i
  have hdecode : decode (encode i) = .ok (operandsOf r.mn (encode i)) := decode_eq_ok_iff.2 ⟨r, hr, hmatch, rfl⟩
  rwa [latchOf_injective (latchOf_of_decode_encode hdecode)] at hdecode

/-- A legal word has 0 in its reserved bits (R86). -/
theorem reserved_of_decode {c : Command} {i : Instr} (h : decode c = .ok i) : c.cw.extractLsb' 5 3 = 0#3 := by
  obtain ⟨r, hr, hmatch, -⟩ := decode_eq_ok_iff.1 h
  obtain ⟨-, -, hres, -⟩ := (row_matches_iff_fields hr c.cw).1 hmatch
  exact hres

/-- Settles O2: a legal word and the word encoded from its command agree field by field. -/
theorem encodeOfDecode : Obligations.EncodeOfDecode := by
  intro c i h
  have hlatch := latchOf_of_decode h
  obtain ⟨hop, hm, hres, hb, hlen⟩ := encodeWord_fields i
  have hword : encodeWord i = c.cw := by
    rw [word_eq_iff_fields, hop, hm, hres, hb, hlen, hlatch, reserved_of_decode h]
    simp
  have hbase : i.base = c.base := base_of_decode h
  have hdata : i.data = c.data := congrArg Cmd.data hlatch
  rw [encode, hword, hbase, hdata]

/-- Settles O5: `row_unique`. -/
theorem opcodeRowsNeverOverlap : Obligations.OpcodeRowsNeverOverlap :=
  fun _ hr _ hr' _ h h' => row_unique hr hr' h h'

/-- Settles O6: the eight words are those of the encoder. -/
theorem writtenOutWordsDecode : Obligations.WrittenOutWordsDecode :=
  ⟨decodeOfEncode (.detect _ _), decodeOfEncode (.ready _ _), decodeOfEncode (.readym .fifo _ _),
    decodeOfEncode (.readym .legacy _ _), decodeOfEncode (.wrchar 0x48#8 _ _), decodeOfEncode (.wrbytes 2#16 _ _),
    decodeOfEncode (.flush _ _), decodeOfEncode (.setup _ _)⟩

end Sys2Proof.Machine
end

section
/-! PROOFS. The invariant of the reachable states (10_state.md rule R43): it holds at reset, every step keeps it, and no
step from it stops. -/

namespace Sys2Proof.Machine

/-! ### What the invariant says of a running command -/

/-- What the invariant says of a state in which i runs, phase, mode latch and `fe` apart. -/
structure Runs (i : Instr) (s : State) : Prop where
  cmd        : s.cmd = latchOf i
  wellFormed : i.wellFormed = true
  fault      : s.status.fault.toNat ≤ 3
  idx        : (i.op = 0x4#4 → s.idx < s.cmd.len.toNat) ∧ (i.op ≠ 0x4#4 → s.idx = 0)
  sidxBound  : s.sidx ≤ s.params.setupSeq.entries.length

theorem StateInv.runs {s : State} (h : StateInv s) (hp : s.phase ≠ .idle) : ∃ i, Runs i s ∧ s.phase ∈ i.phases := by
  obtain ⟨i, hcmd, hw, hphase⟩ := h.running hp
  have hop : i.op = s.cmd.op := by rw [hcmd]; rfl
  exact ⟨i, ⟨hcmd, hw, h.fault, hop ▸ h.idx hp, h.sidxBound⟩, hphase⟩

/-- A bus read, and any other update outside `cmd`, STATUS, the indexes and the parameters, leaves the command running. -/
theorem Runs.of_eq {i : Instr} {s u : State} (h : Runs i s) (hcmd : u.cmd = s.cmd) (hstatus : u.status = s.status)
    (hidx : u.idx = s.idx) (hsidx : u.sidx = s.sidx) (hparams : u.params = s.params) : Runs i u where
  cmd := hcmd.trans h.cmd
  wellFormed := h.wellFormed
  fault := by rw [hstatus]; exact h.fault
  idx := by rw [hidx, hcmd]; exact h.idx
  sidxBound := by rw [hsidx, hparams]; exact h.sidxBound

theorem Runs.idx_lt {i : Instr} {s : State} (h : Runs i s) : s.idx < Const.maxLen := by
  have hmax : Const.maxLen = 65535 := rfl
  by_cases hop : i.op = 0x4#4
  · have hlt := h.idx.1 hop
    have hlen := s.cmd.len.isLt
    omega
  · have hzero := h.idx.2 hop
    omega

/-- No command's phases hold `IDLE`. -/
theorem ne_idle_of_mem_phases {i : Instr} {p : Phase} (hp : p ∈ i.phases) : p ≠ .idle := by
  rintro rfl
  cases i <;> simp [Instr.phases] at hp

/-! ### The two ends of a step -/

/-- A command that goes on in a phase p of its own keeps the invariant, if the latches are as p asks (R43). -/
theorem Runs.stateInv_goTo {i : Instr} {u : State} {p : Phase} (h : Runs i u) (hp : p ∈ i.phases)
    (hmode : u.mode.isSome = p.hasMode) (hfe : u.fe = true → p = .flagTe)
    (hsidx : p = .setupStep → u.sidx < u.params.setupSeq.entries.length) : StateInv (goTo p u) where
  busy := rfl
  fault := h.fault
  mode := hmode
  fe := hfe
  running := fun _ => ⟨i, h.cmd, h.wellFormed, hp⟩
  idx := fun _ => by
    have hop : u.cmd.op = i.op := by rw [h.cmd]; rfl
    simpa only [goTo_cmd, goTo_idx, hop] using h.idx
  idxBound := h.idx_lt.le
  sidx := hsidx
  sidxBound := h.sidxBound

/-- A completion keeps the invariant: in `IDLE` only the bounds are left to hold. -/
theorem stateInv_complete {u : State} (r : Word) (hfault : u.status.fault.toNat ≤ 3) (hidx : u.idx ≤ Const.maxLen)
    (hsidx : u.sidx ≤ u.params.setupSeq.entries.length) : StateInv (complete r u) where
  busy := rfl
  fault := hfault
  mode := rfl
  fe := fun h => nomatch h
  running := fun h => absurd rfl h
  idx := fun h => absurd rfl h
  idxBound := hidx
  sidx := fun h => nomatch h
  sidxBound := hsidx

theorem Runs.stateInv_completes {i : Instr} {u : State} (h : Runs i u) (r : Word) : StateInv (complete r u) :=
  stateInv_complete r h.fault h.idx_lt.le h.sidxBound

/-! ### Acceptance -/

/-- In `IDLE` no mode is latched and `fe` is clear. -/
theorem StateInv.latches_of_idle {s : State} (h : StateInv s) (hp : s.phase = .idle) : s.mode = none ∧ s.fe = false := by
  have hmode := h.mode
  have hfe := h.fe
  simp only [hp, Phase.hasMode, Option.isSome_eq_false_iff, Option.isNone_iff_eq_none, reduceCtorEq, imp_false,
    Bool.not_eq_true] at hmode hfe
  exact ⟨hmode, hfe⟩

theorem StateInv.after_takeOffer {s : State} (h : StateInv s) (c : Command) (rest : List Command) :
    StateInv (takeOffer c rest s) :=
  ⟨h.busy, h.fault, h.mode, h.fe, h.running, h.idx, h.idxBound, h.sidx, h.sidxBound⟩

theorem code_le_three (f : FaultCode) : f.code.toNat ≤ 3 := by
  cases f <;> decide

theorem keepFirst_fault_le {st : Status} (f : FaultCode) (h : st.fault.toNat ≤ 3) :
    (st.keepFirst f).fault.toNat ≤ 3 := by
  by_cases hzero : st.fault = 0#3
  · rw [keepFirst_of_zero f hzero]
    exact code_le_three f
  · rwa [keepFirst_of_ne f hzero]

theorem StateInv.after_raiseFault {s : State} (h : StateInv s) (f : FaultCode) : StateInv (raiseFault f s) :=
  ⟨(keepFirst_busy f s.status).trans h.busy, keepFirst_fault_le f h.fault, h.mode, h.fe, h.running, h.idx, h.idxBound,
    h.sidx, h.sidxBound⟩

/-- A latched command runs, unless it is a WRBYTES with nothing to write. -/
theorem StateInv.runs_latch {s : State} (h : StateInv s) {i : Instr} (hw : i.wellFormed = true)
    (hlen : i.op = 0x4#4 → 0 < (latchOf i).len.toNat) : Runs i (latch i s) :=
  ⟨rfl, hw, h.fault, ⟨hlen, fun _ => rfl⟩, Nat.zero_le _⟩

/-- R123, R124: WRBYTES completes at acceptance when L is 0. -/
theorem acceptAction_wrbytes (len : Len) (base : Word) (data : List Byte) (s : State) :
    acceptAction (.wrbytes len base data) s = if len = 0#16 then complete 0#32 s else goTo .flagFe s :=
  rfl

/-- The acceptance action of a well-formed command keeps the invariant. -/
theorem StateInv.after_acceptAction {s : State} (h : StateInv s) (hp : s.phase = .idle) {i : Instr}
    (hw : i.wellFormed = true) : StateInv (acceptAction i (latch i s)) := by
  obtain ⟨hmode, -⟩ := h.latches_of_idle hp
  have hnone : (latch i s).mode.isSome = false := by simp [hmode]
  have goes {p : Phase} (hlen : i.op = 0x4#4 → 0 < (latchOf i).len.toNat) (hphase : p ∈ i.phases)
      (hmode : p.hasMode = false) : StateInv (goTo p (latch i s)) :=
    (h.runs_latch hw hlen).stateInv_goTo hphase (hnone.trans hmode.symm) (fun hfe => nomatch hfe)
      (fun _ => setupSeq_pos _)
  cases i with
  | detect | ready | wrchar | flush | setup =>
    exact goes (fun hop => nomatch hop) (by simp [Instr.phases]) rfl
  | readym m base data =>
    have hruns := h.runs_latch hw (fun hop => nomatch hop)
    exact (hruns.of_eq (u := { latch _ s with mode := some m }) rfl rfl rfl rfl rfl).stateInv_goTo
      (by simp [Instr.phases]) rfl (fun hfe => nomatch hfe) (fun hp => nomatch hp)
  | wrbytes len base data =>
    by_cases hlen : len = 0#16
    · rw [acceptAction_wrbytes, if_pos hlen]
      exact stateInv_complete _ h.fault (Nat.zero_le _) (Nat.zero_le _)
    · rw [acceptAction_wrbytes, if_neg hlen]
      have hpos : 0 < len.toNat := Nat.pos_of_ne_zero fun hzero => hlen (BitVec.eq_of_toNat_eq hzero)
      exact goes (fun _ => hpos) (by simp [Instr.phases]) rfl

/-! ### The steps of a running command -/

/-- A command that detects the mode enters `FLAG_TE` from `FLAG_FE` (R103). -/
theorem flagTe_mem_of_flagFe_mem {i : Instr} (h : .flagFe ∈ i.phases) : .flagTe ∈ i.phases := by
  cases i <;> simp [Instr.phases] at h ⊢

theorem pollOnce_mem_of_op {i : Instr} (h : i.op = 0x2#4) : .pollOnce ∈ i.phases := by
  cases i <;> simp [Instr.phases, Instr.op] at h ⊢

/-- The two transmits poll and write (R120, R121). -/
theorem transmit_phases_of_op {i : Instr} (h : i.op = 0x3#4 ∨ i.op = 0x4#4) :
    .pollTx ∈ i.phases ∧ .writeThr ∈ i.phases := by
  cases i <;> simp [Instr.phases, Instr.op] at h ⊢

/-- Every step of a running command keeps the invariant. -/
theorem StateInv.after_exec {s t : State} (h : StateInv s) {i : Instr} (hruns : Runs i s) (hphase : s.phase ∈ i.phases)
    (hexec : exec i s = .next t) : StateInv t := by
  have hp := ne_idle_of_mem_phases hphase
  have hmode := h.mode
  have hfe (hne : s.phase ≠ .flagTe) {p : Phase} : s.fe = true → p = .flagTe := fun hs => absurd (h.fe hs) hne
  have hread (a : Word) : Runs i (busRead a s) := hruns.of_eq rfl rfl rfl rfl rfl
  have hte : Runs i (readTe s) := hruns.of_eq rfl rfl rfl rfl rfl
  have hidx := hruns.idx_lt
  obtain ⟨hs, rfl⟩ | ⟨hs, -, rfl⟩ | ⟨hs, hop, rfl⟩ | ⟨hs, hop, rfl⟩ | ⟨hs, -, m, -, rfl⟩ | ⟨hs, hop, m, hm, rfl⟩ |
    ⟨hs, -, rfl⟩ | ⟨hs, hop, v, -, rfl⟩ | ⟨hs, hop, rfl⟩ | ⟨hs, hop, hsetup⟩ := exec_running hp hexec
  · rw [hs] at hphase hmode
    have hfeRead : Runs i { busRead (s.addr Const.offFe) s with fe := flagSet s.params.feMask s.answer } :=
      hruns.of_eq rfl rfl rfl rfl rfl
    exact hfeRead.stateInv_goTo (flagTe_mem_of_flagFe_mem hphase) hmode (fun _ => rfl) (fun hp => nomatch hp)
  · exact hte.stateInv_completes _
  · exact hte.stateInv_goTo (pollOnce_mem_of_op hop) rfl (fun hfe => nomatch hfe) (fun hp => nomatch hp)
  · exact hte.stateInv_goTo (transmit_phases_of_op hop).1 rfl (fun hfe => nomatch hfe) (fun hp => nomatch hp)
  · exact (hread _).stateInv_completes _
  · have hsome : s.mode.isSome = true := by simp [hm]
    split
    · exact (hread _).stateInv_goTo (transmit_phases_of_op hop).2 hsome (hfe (by simp [hs])) (fun hp => nomatch hp)
    · exact (hread _).stateInv_goTo (transmit_phases_of_op hop).1 hsome (hfe (by simp [hs])) (fun hp => nomatch hp)
  · exact stateInv_complete _ h.fault hidx h.sidxBound
  · split
    case isTrue => exact stateInv_complete _ h.fault hidx h.sidxBound
    case isFalse hmore =>
      rw [hs] at hmode
      have hlt := hruns.idx.1 hop
      have hnext : Runs i (writeThr v s) :=
        ⟨hruns.cmd, hruns.wellFormed, h.fault, ⟨fun _ => by simp only [writeThr_idx, writeThr_cmd]; omega,
          fun hne => absurd hop hne⟩, h.sidxBound⟩
      exact hnext.stateInv_goTo (transmit_phases_of_op (.inr hop)).1 hmode (hfe (by simp [hs])) (fun hp => nomatch hp)
  · obtain ⟨-, heq⟩ | ⟨-, heq⟩ := stepPollIdle_cases s
    · rw [heq]
      exact (hread _).stateInv_completes _
    · rw [hs] at hphase hmode
      rw [heq]
      exact (hread _).stateInv_goTo hphase hmode (hfe (by simp [hs])) (fun hp => nomatch hp)
  · obtain ⟨e, -, rfl⟩ := stepSetup_next hsetup
    have hlt := h.sidx hs
    split
    case isTrue => exact stateInv_complete _ h.fault h.idxBound hlt
    case isFalse hmore =>
      rw [hs] at hphase hmode
      have hnext : Runs i (writeEntry e s) := ⟨hruns.cmd, hruns.wellFormed, h.fault, hruns.idx, hlt⟩
      exact hnext.stateInv_goTo hphase hmode (hfe (by simp [hs]))
        (fun _ => by simp only [writeEntry_sidx, writeEntry_params]; omega)

/-! ### No step stops -/

/-- R85: the buffer of a WRBYTES holds L bytes. -/
theorem Runs.data_length {i : Instr} {s : State} (h : Runs i s) (hop : i.op = 4#4) :
    s.cmd.data.length = s.cmd.len.toNat := by
  obtain ⟨hfits, -⟩ := Bool.and_eq_true_iff.1 h.wellFormed
  rw [h.cmd]
  simpa [payloadLength_eq, latchOf, hop] using i.payloadFits_iff.1 hfits

/-- A byte is left to write while `idx` is below L. -/
theorem Runs.exists_byte {i : Instr} {s : State} (h : Runs i s) (hop : i.op = 4#4) :
    ∃ v, s.cmd.data[s.idx]? = some v := by
  have hlt := h.idx.1 hop
  rw [← h.data_length hop] at hlt
  exact ⟨_, List.getElem?_eq_getElem hlt⟩

/-- A running command has a next step in each of its phases. -/
theorem StateInv.exists_exec {s : State} (h : StateInv s) {i : Instr} (hruns : Runs i s)
    (hphase : s.phase ∈ i.phases) : ∃ t, exec i s = .next t := by
  have hmode : s.phase.hasMode = true → ∃ m, s.mode = some m := fun hp => by
    rw [← h.mode] at hp
    exact Option.isSome_iff_exists.1 hp
  rcases hs : s.phase with _ | _ | _ | _ | _ | _ | _ | _ <;> rw [hs] at hphase hmode
  case idle => exact absurd rfl (ne_idle_of_mem_phases hphase)
  case flagFe => exact ⟨_, exec_flagFe hphase hs⟩
  case flagTe =>
    cases i with
    | detect | ready | wrchar | wrbytes =>
      simp [exec, execDetect, execReady, execWrchar, execWrbytes, hs]
    | flush | setup | readym => simp [Instr.phases] at hphase
  case pollOnce =>
    obtain ⟨m, hm⟩ := hmode rfl
    exact ⟨_, exec_pollOnce hphase hs hm⟩
  case pollTx =>
    obtain ⟨m, hm⟩ := hmode rfl
    exact ⟨_, (exec_pollTx hphase hs).trans (stepPollTx_of_mode hm)⟩
  case writeThr =>
    cases i with
    | wrchar b base data => exact ⟨_, exec_wrchar_writeThr hs b base data⟩
    | wrbytes len base data =>
      obtain ⟨v, hv⟩ := hruns.exists_byte rfl
      exact ⟨_, exec_wrbytes_writeThr hs hv len base data⟩
    | detect | ready | flush | setup | readym => simp [Instr.phases] at hphase
  case pollIdle =>
    cases i with
    | flush base data => exact ⟨_, exec_flush_pollIdle hs base data⟩
    | detect | ready | wrchar | wrbytes | setup | readym => simp [Instr.phases] at hphase
  case setupStep =>
    cases i with
    | setup base data =>
      exact ⟨_, (exec_setup_setupStep hs base data).trans
        (stepSetup_of_entry (List.getElem?_eq_getElem (h.sidx hs)))⟩
    | detect | ready | wrchar | wrbytes | flush | readym => simp [Instr.phases] at hphase

/-! ### The statements -/

/-- Reset leaves an idle block with its registers clear. -/
theorem stateInv_takeReset (s : State) : StateInv (takeReset s) where
  busy := rfl
  fault := Nat.zero_le _
  mode := rfl
  fe := fun h => nomatch h
  running := fun h => absurd rfl h
  idx := fun h => absurd rfl h
  idxBound := Nat.zero_le _
  sidx := fun h => nomatch h
  sidxBound := Nat.zero_le _

/-- Settles O42: the state after reset is one that a reset leaves as it is. -/
theorem resetStateMeetsTheInvariant : Obligations.ResetStateMeetsTheInvariant := stateInv_takeReset State.reset

/-- Settles O45: the invariant speaks of no port. -/
theorem portsKeepTheInvariant : Obligations.PortsKeepTheInvariant := fun _ _ _ _ h =>
  ⟨h.busy, h.fault, h.mode, h.fe, h.running, h.idx, h.idxBound, h.sidx, h.sidxBound⟩

/-- Settles O43: reset, the two refusals and the acceptance of an offer, and the steps of the running command. -/
theorem stepKeepsTheInvariant : Obligations.StepKeepsTheInvariant := by
  intro s t h hstep
  obtain ⟨-, rfl⟩ | ⟨-, -, -, rfl⟩ | ⟨-, -, c, rest, e, -, -, rfl⟩ | ⟨-, hp, c, rest, i, -, -, rfl⟩ |
    ⟨-, hp, i, hi, hexec⟩ := step_cases hstep
  · exact stateInv_takeReset s
  · exact h
  · exact (h.after_takeOffer c rest).after_raiseFault .illegal
  · obtain ⟨-, heq⟩ | ⟨-, -, heq⟩ | ⟨hw, heq⟩ := accept_cases i (acceptAction i) (takeOffer c rest s)
    · rw [heq]
      exact (h.after_takeOffer c rest).after_raiseFault .length
    · rw [heq]
      exact (h.after_takeOffer c rest).after_raiseFault .align
    · rw [heq]
      exact (h.after_takeOffer c rest).after_acceptAction hp hw
  · obtain ⟨j, hruns, hphase⟩ := h.runs hp
    obtain rfl : j = i := by simpa [hruns.cmd] using hi
    exact h.after_exec hruns hphase hexec

/-- Settles O44: in `IDLE` every offer has an answer, and a running command has a next step in each of its phases. -/
theorem noStepStops : Obligations.NoStepStops := by
  intro s h
  by_cases hr : s.resetReq = true
  · exact ⟨_, step_reset hr⟩
  rw [Bool.not_eq_true] at hr
  by_cases hp : s.phase = .idle
  · rcases ho : s.offers with _ | ⟨c, rest⟩
    · exact ⟨_, step_no_offer hr hp ho⟩
    · rcases hd : decode c with e | i
      · exact ⟨_, step_illegal hr hp ho hd⟩
      · exact ⟨_, step_offered hr hp ho hd⟩
  · obtain ⟨i, hruns, hphase⟩ := h.runs hp
    rw [step_latched hr hp hruns.cmd]
    exact h.exists_exec hruns hphase

end Sys2Proof.Machine
end

section
/-! PROOFS. The bus transaction of each step and what it writes: the answers it takes, the latches, the bytes stored
(10_state.md sections 1 and 2, 20_memory.md). -/

namespace Sys2Proof.Machine

/-! ### The transaction of a running command's step -/

/-- `Transacts op s e u`: in state s a command with OP op makes the bus transaction e, and with the latches it writes the
state is then u; the step's conclusion is still to come. -/
inductive Transacts (op : BitVec 4) (s : State) : Event → State → Prop where
  | readFe (hp : s.phase = .flagFe) : Transacts op s (.rd (s.addr Const.offFe) s.answer)
      { busRead (s.addr Const.offFe) s with fe := flagSet s.params.feMask s.answer }
  | readTe (hp : s.phase = .flagTe) : Transacts op s (.rd (s.addr Const.offTe) s.answer) (readTe s)
  | readLsr (hp : s.phase = .pollOnce ∨ s.phase = .pollTx ∨ s.phase = .pollIdle) :
      Transacts op s (.rd (s.addr Const.offLsr) s.answer) (busRead (s.addr Const.offLsr) s)
  | writeChar (hp : s.phase = .writeThr) (hop : op = 0x3#4) :
      Transacts op s (.wr (s.addr Const.offThr) (.byte s.cmd.b)) (writeThr s.cmd.b s)
  | writeNext {v : Byte} (hp : s.phase = .writeThr) (hop : op = 0x4#4) (hv : s.cmd.data[s.idx]? = some v) :
      Transacts op s (.wr (s.addr Const.offThr) (.byte v)) (writeThr v s)
  | writeEntry {e : SetupEntry} (hp : s.phase = .setupStep) (hop : op = 0x6#4)
      (he : s.params.setupSeq.entries[s.sidx]? = some e) :
      Transacts op s (.wr (s.addr e.off) e.value) (writeEntry e s)

/-- A step of a running command is one transaction and a conclusion. -/
theorem exec_transacts {i : Instr} {s t : State} (hp : s.phase ≠ .idle) (h : exec i s = .next t) :
    ∃ e u, Transacts i.op s e u ∧ Concludes u t := by
  obtain ⟨hs, rfl⟩ | ⟨hs, -, rfl⟩ | ⟨hs, -, rfl⟩ | ⟨hs, -, rfl⟩ | ⟨hs, -, m, -, rfl⟩ | ⟨hs, -, m, -, rfl⟩ |
    ⟨hs, hop, rfl⟩ | ⟨hs, hop, v, hv, rfl⟩ | ⟨hs, -, rfl⟩ | ⟨hs, hop, hsetup⟩ := exec_running hp h
  · exact ⟨_, _, .readFe hs, .goesOn .flagTe (by decide)⟩
  · exact ⟨_, _, .readTe hs, .completes _⟩
  · exact ⟨_, _, .readTe hs, .goesOn _ (by decide)⟩
  · exact ⟨_, _, .readTe hs, .goesOn _ (by decide)⟩
  · exact ⟨_, _, .readLsr (.inl hs), .completes _⟩
  · exact ⟨_, _, .readLsr (.inr (.inl hs)), .goesOn _ (by split <;> decide)⟩
  · exact ⟨_, _, .writeChar hs hop, .completes _⟩
  · exact ⟨_, _, .writeNext hs hop hv, .ite (by decide)⟩
  · exact ⟨_, _, .readLsr (.inr (.inr hs)), .ite (by decide)⟩
  · obtain ⟨e, he, rfl⟩ := stepSetup_next hsetup
    exact ⟨_, _, .writeEntry hs hop he, .ite (by decide)⟩

theorem Transacts.trace {op : BitVec 4} {s u : State} {e : Event} (h : Transacts op s e u) :
    u.trace = s.trace ++ [e] := by
  cases h <;> rfl

theorem Transacts.params {op : BitVec 4} {s u : State} {e : Event} (h : Transacts op s e u) : u.params = s.params := by
  cases h <;> rfl

theorem Transacts.isBus {op : BitVec 4} {s u : State} {e : Event} (h : Transacts op s e u) : e.isBus = true := by
  cases h <;> rfl

theorem Transacts.ne_idle {op : BitVec 4} {s u : State} {e : Event} (h : Transacts op s e u) : s.phase ≠ .idle := by
  cases h with
  | readLsr hp => obtain hp | hp | hp := hp <;> simp [hp]
  | readFe hp | readTe hp | writeChar hp | writeNext hp | writeEntry hp => simp [hp]

/-- R37: a read takes the next answer, a write takes none. -/
theorem Transacts.answers {op : BitVec 4} {s u : State} {e : Event} (h : Transacts op s e u) :
    (∃ a, e = .rd a (s.answerAt 0) ∧ ∀ k, u.answerAt k = s.answerAt (k + 1)) ∨
    (∃ a d, e = .wr a d ∧ ∀ k, u.answerAt k = s.answerAt k) := by
  cases h with
  | readFe | readTe | readLsr => exact .inl ⟨_, rfl, answerAt_after_read rfl rfl⟩
  | writeChar | writeNext | writeEntry => exact .inr ⟨_, _, rfl, answerAt_congr rfl rfl⟩

/-! ### The conclusion of a step -/

theorem Concludes.answerAt {u t : State} (h : Concludes u t) (k : Nat) : t.answerAt k = u.answerAt k := by
  cases h <;> rfl

theorem Concludes.params {u t : State} (h : Concludes u t) : t.params = u.params := by cases h <;> rfl
theorem Concludes.idx {u t : State} (h : Concludes u t) : t.idx = u.idx := by cases h <;> rfl
theorem Concludes.sidx {u t : State} (h : Concludes u t) : t.sidx = u.sidx := by cases h <;> rfl

theorem Concludes.fe {u t : State} (h : Concludes u t) : t.fe = u.fe ∨ t.fe = false := by
  cases h
  · exact .inl rfl
  · exact .inr rfl

theorem Concludes.mode {u t : State} (h : Concludes u t) : t.mode = u.mode ∨ (t.mode = none ∧ t.phase = .idle) := by
  cases h
  · exact .inl rfl
  · exact .inr ⟨rfl, rfl⟩

/-! ### The five kinds of step -/

/-- What a step can do, with the transaction of a running command in full. -/
inductive StepParts (s t : State) : Prop where
  | resets (hr : s.resetReq = true) (ht : t = takeReset s)
  | waits (hp : s.phase = .idle) (ht : t = s)
  | refuses (c : Command) (rest : List Command) (f : FaultCode) (hp : s.phase = .idle)
      (ht : t = raiseFault f (takeOffer c rest s))
  | starts (c : Command) (rest : List Command) (i : Instr) (hp : s.phase = .idle) (ho : s.offers = c :: rest)
      (hd : decode c = .ok i) (hw : i.wellFormed = true) (ht : t = acceptAction i (latch i (takeOffer c rest s)))
  | transacts (i : Instr) (e : Event) (u : State) (hr : s.resetReq = false) (hu : Transacts i.op s e u)
      (ht : Concludes u t)

theorem step_parts {s t : State} (h : step s = .next t) : StepParts s t := by
  obtain ⟨hr, rfl⟩ | ⟨-, hp, -, rfl⟩ | ⟨-, hp, c, rest, e, -, -, rfl⟩ | ⟨-, hp, c, rest, i, ho, hd, rfl⟩ |
    ⟨hr, hp, i, -, hexec⟩ := step_cases h
  · exact .resets hr rfl
  · exact .waits hp rfl
  · exact .refuses c rest .illegal hp rfl
  · obtain ⟨-, heq⟩ | ⟨-, -, heq⟩ | ⟨hw, heq⟩ := accept_cases i (acceptAction i) (takeOffer c rest s)
    · exact .refuses c rest .length hp heq
    · exact .refuses c rest .align hp heq
    · exact .starts c rest i hp ho hd hw heq
  · obtain ⟨e, u, hu, ht⟩ := exec_transacts hp hexec
    exact .transacts i e u hr hu ht

/-- The events of a step: the transaction of a running command and events that are none. -/
theorem step_events {s t : State} (h : step s = .next t) :
    ((s.phase = .idle ∨ s.resetReq = true) ∧ (∀ k, t.answerAt k = s.answerAt k) ∧
      ∃ es, t.trace = s.trace ++ es ∧ ∀ e ∈ es, e.isBus = false) ∨
    (s.phase ≠ .idle ∧ s.resetReq = false ∧ ∃ op e u, Transacts op s e u ∧ (∀ k, t.answerAt k = u.answerAt k) ∧
      ∃ es, t.trace = s.trace ++ e :: es ∧ ∀ e ∈ es, e.isBus = false) := by
  cases step_parts h with
  | resets hr ht =>
    subst ht
    exact .inl ⟨.inr hr, fun _ => rfl, [], by simp⟩
  | waits hp ht =>
    subst ht
    exact .inl ⟨.inl hp, fun _ => rfl, [], by simp⟩
  | refuses c rest f hp ht =>
    subst ht
    exact .inl ⟨.inl hp, fun _ => rfl, [.accept c, .resp (.fault f) 0#32], by simp⟩
  | starts c rest i hp ho hd hw ht =>
    obtain ⟨m, hm⟩ := acceptAction_concludes i (latch i (takeOffer c rest s))
    rw [← ht] at hm
    obtain ⟨es, htrace, hes⟩ := hm.trace_no_bus
    exact .inl ⟨.inl hp, hm.answerAt, .accept c :: es, by simp [htrace], by simpa using hes⟩
  | transacts i e u hr hu ht =>
    obtain ⟨es, htrace, hes⟩ := ht.trace_no_bus
    exact .inr ⟨hu.ne_idle, hr, i.op, e, u, hu, ht.answerAt, es, by simp [htrace, hu.trace], hes⟩

theorem busEvents_eq_nil {es : List Event} (h : ∀ e ∈ es, e.isBus = false) : busEvents es = [] :=
  List.filter_eq_nil_iff.2 fun e he => by simp [h e he]

theorem busEvents_cons_eq {e : Event} {es : List Event} (he : e.isBus = true) (h : ∀ e ∈ es, e.isBus = false) :
    busEvents (e :: es) = [e] :=
  (List.filter_cons_of_pos he).trans (congrArg _ (busEvents_eq_nil h))

theorem rd_not_mem_of_no_bus {es : List Event} (h : ∀ e ∈ es, e.isBus = false) (a v : Word) : .rd a v ∉ es :=
  fun hmem => nomatch h _ hmem

/-- Settles O33: a step has the one transaction of the running command, or none. -/
theorem atMostOneTransactionPerStep : Obligations.AtMostOneTransactionPerStep := by
  intro s t h
  obtain ⟨-, -, es, htrace, hes⟩ | ⟨hp, hr, op, e, u, hu, -, es, htrace, hes⟩ := step_events h
  · exact ⟨es, htrace, by simp [busEvents_eq_nil hes], fun _ => busEvents_eq_nil hes⟩
  · exact ⟨e :: es, htrace, by simp [busEvents_cons_eq hu.isBus hes], fun hno => absurd hno (by simp [hp, hr])⟩

/-- Settles O34: the transaction is a read, which takes the next answer, or a write; no other event is a read. -/
theorem eachReadTakesTheNextAnswer : Obligations.EachReadTakesTheNextAnswer := by
  intro s t h
  obtain ⟨-, hans, es, htrace, hes⟩ | ⟨-, -, op, e, u, hu, hans, es, htrace, hes⟩ := step_events h
  · exact ⟨es, htrace, .inr ⟨rd_not_mem_of_no_bus hes, hans⟩⟩
  · refine ⟨e :: es, htrace, ?_⟩
    obtain ⟨a, rfl, hnext⟩ | ⟨a, d, rfl, hsame⟩ := hu.answers
    · exact .inl ⟨a, busEvents_cons_eq rfl hes, fun k => (hans k).trans (hnext k)⟩
    · refine .inr ⟨fun a' v => ?_, fun k => (hans k).trans (hsame k)⟩
      simpa using rd_not_mem_of_no_bus hes a' v

/-- Settles O35: addition of words is addition mod 2^32. -/
theorem addressesWrap : Obligations.AddressesWrap := fun s off => BitVec.toNat_add s.cmd.base off

/-! ### The latches -/

/-- Settles O27: each latch changes in the transaction of its own phase, or is cleared. -/
theorem latchesHaveTheirWriters : Obligations.LatchesHaveTheirWriters := by
  intro s t h
  cases step_parts h with
  | resets hr ht =>
    subst ht
    exact ⟨rfl, .inr (.inl rfl), .inr (.inl ⟨rfl, .inr hr⟩), .inr (.inl ⟨rfl, .inr hr⟩)⟩
  | waits hp ht =>
    subst ht
    exact ⟨rfl, .inl rfl, .inl rfl, .inl rfl⟩
  | refuses c rest f hp ht =>
    subst ht
    exact ⟨rfl, .inl rfl, .inl rfl, .inl rfl⟩
  | starts c rest i hp ho hd hw ht =>
    rw [ht, acceptAction_latch]
    exact ⟨rfl, .inr (.inl rfl), .inr (.inl ⟨rfl, .inl hp⟩), .inr (.inl ⟨rfl, .inl hp⟩)⟩
  | transacts i e u hr hu ht =>
    rw [ht.params, ht.idx, ht.sidx]
    refine ⟨hu.params, ?fe, ?idx, ?sidx⟩
    case fe =>
      obtain hfe | hfe := ht.fe
      · rw [hfe]
        cases hu with
        | readFe hp => exact .inr (.inr ⟨hp, rfl⟩)
        | readTe => exact .inr (.inl rfl)
        | readLsr | writeChar | writeNext | writeEntry => exact .inl rfl
      · exact .inr (.inl hfe)
    case idx =>
      cases hu with
      | writeChar hp | writeNext hp => exact .inr (.inr ⟨hp, rfl⟩)
      | readFe | readTe | readLsr | writeEntry => exact .inl rfl
    case sidx =>
      cases hu with
      | writeEntry hp => exact .inr (.inr ⟨hp, rfl⟩)
      | readFe | readTe | readLsr | writeChar | writeNext => exact .inl rfl

/-! ### Commands by their OP (R82) -/

theorem eq_detect_of_op {i : Instr} (h : i.op = 0x1#4) : ∃ base data, i = .detect base data := by
  cases i <;> simp [Instr.op] at h ⊢

theorem eq_ready_of_op {i : Instr} (h : i.op = 0x2#4) : ∃ base data, i = .ready base data := by
  cases i <;> simp [Instr.op] at h ⊢

theorem eq_wrchar_of_op {i : Instr} (h : i.op = 0x3#4) : ∃ b base data, i = .wrchar b base data := by
  cases i <;> simp [Instr.op] at h ⊢

theorem eq_wrbytes_of_op {i : Instr} (h : i.op = 0x4#4) : ∃ len base data, i = .wrbytes len base data := by
  cases i <;> simp [Instr.op] at h ⊢

theorem eq_flush_of_op {i : Instr} (h : i.op = 0x5#4) : ∃ base data, i = .flush base data := by
  cases i <;> simp [Instr.op] at h ⊢

theorem eq_setup_of_op {i : Instr} (h : i.op = 0x6#4) : ∃ base data, i = .setup base data := by
  cases i <;> simp [Instr.op] at h ⊢

/-! ### The mode latch -/

/-- Acceptance writes no field by the mode latch but the latch itself. -/
theorem accept_ignores_mode (i : Instr) (s : State) (x : Option Mode) :
    ∃ y, accept i (acceptAction i) { s with mode := x } = { accept i (acceptAction i) s with mode := y } := by
  obtain ⟨hfits, heq⟩ | ⟨hfits, hbase, heq⟩ | ⟨hw, heq⟩ := accept_cases i (acceptAction i) s
  · exact ⟨x, by simp [accept, hfits, raiseFault]⟩
  · exact ⟨x, by simp [accept, hfits, hbase, raiseFault]⟩
  · refine ⟨(startOf (latchOf i) { s with mode := x }).mode, ?_⟩
    rw [accept_of_wellFormed hw, accept_of_wellFormed hw, acceptAction_latch, acceptAction_latch]
    rfl

/-- R103: the two transmits go on from `FLAG_TE` to their first poll. -/
theorem exec_transmit_flagTe {i : Instr} {s : State} (hi : .pollTx ∈ i.phases) (hp : s.phase = .flagTe) :
    exec i s = .next (goTo .pollTx (readTe s)) := by
  cases i with
  | wrchar | wrbytes => simp [exec, execWrchar, execWrbytes, hp]
  | detect | ready | flush | setup | readym => simp [Instr.phases] at hi

theorem exec_detect_flagTe {s : State} (hp : s.phase = .flagTe) (base : Word) (data : List Byte) :
    exec (.detect base data) s = .next (complete (b2w (s.detected == .fifo)) (readTe s)) := by
  simp [exec, execDetect, hp]

theorem exec_ready_flagTe {s : State} (hp : s.phase = .flagTe) (base : Word) (data : List Byte) :
    exec (.ready base data) s = .next (goTo .pollOnce (readTe s)) := by
  simp [exec, execReady, hp]

/-- The byte write of WRBYTES has a byte to write (R121). -/
theorem exec_wrbytes_writeThr_next {s t : State} {len : Len} {base : Word} {data : List Byte}
    (hp : s.phase = .writeThr) (h : exec (.wrbytes len base data) s = .next t) :
    ∃ v, s.cmd.data[s.idx]? = some v ∧
      t = if s.idx + 1 = s.cmd.len.toNat then complete 0#32 (writeThr v s) else goTo .pollTx (writeThr v s) := by
  cases hv : s.cmd.data[s.idx]? with
  | none => simp [exec, execWrbytes, hp, hv] at h
  | some v =>
    rw [exec_wrbytes_writeThr hp hv] at h
    injection h with h
    exact ⟨v, rfl, h.symm⟩

/-- Only the `POLL_ONCE` and `POLL_TX` steps of a running command read the mode latch. -/
theorem exec_running_ignores_mode {i : Instr} {s t : State} (hp : s.phase ≠ .idle) (honce : s.phase ≠ .pollOnce)
    (htx : s.phase ≠ .pollTx) (h : exec i s = .next t) (x : Option Mode) :
    ∃ y, exec i { s with mode := x } = .next { t with mode := y } := by
  have hi := phase_of_exec hp h
  obtain ⟨hs, rfl⟩ | ⟨hs, hop, rfl⟩ | ⟨hs, hop, rfl⟩ | ⟨hs, hop, rfl⟩ | ⟨hs, -⟩ | ⟨hs, -⟩ | ⟨hs, hop, rfl⟩ |
    ⟨hs, hop, v, hv, rfl⟩ | ⟨hs, hop, rfl⟩ | ⟨hs, hop, hsetup⟩ := exec_running hp h
  · exact ⟨x, exec_flagFe (s := { s with mode := x }) (hs ▸ hi) hs⟩
  · obtain ⟨base, data, rfl⟩ := eq_detect_of_op hop
    exact ⟨none, exec_detect_flagTe (s := { s with mode := x }) hs base data⟩
  · obtain ⟨base, data, rfl⟩ := eq_ready_of_op hop
    exact ⟨some s.detected, exec_ready_flagTe (s := { s with mode := x }) hs base data⟩
  · exact ⟨some s.detected, exec_transmit_flagTe (s := { s with mode := x }) (transmit_phases_of_op hop).1 hs⟩
  · exact absurd hs honce
  · exact absurd hs htx
  · obtain ⟨b, base, data, rfl⟩ := eq_wrchar_of_op hop
    exact ⟨none, exec_wrchar_writeThr (s := { s with mode := x }) hs b base data⟩
  · obtain ⟨len, base, data, rfl⟩ := eq_wrbytes_of_op hop
    rw [exec_wrbytes_writeThr (s := { s with mode := x }) hs hv]
    by_cases hlast : s.idx + 1 = s.cmd.len.toNat
    · exact ⟨none, by simp [hlast, complete, goTo, writeThr, busWrite, State.addr]⟩
    · exact ⟨x, by simp [hlast, goTo, writeThr, busWrite, State.addr]⟩
  · obtain ⟨base, data, rfl⟩ := eq_flush_of_op hop
    rw [exec_flush_pollIdle (s := { s with mode := x }) hs]
    obtain ⟨hidle, heq⟩ | ⟨hbusy, heq⟩ := stepPollIdle_cases s
    · exact ⟨none, by rw [heq, stepPollIdle_of_idle (s := { s with mode := x }) hidle]; rfl⟩
    · exact ⟨x, by rw [heq, stepPollIdle_of_not_idle (s := { s with mode := x }) hbusy]; rfl⟩
  · obtain ⟨base, data, rfl⟩ := eq_setup_of_op hop
    obtain ⟨e, he, rfl⟩ := stepSetup_next hsetup
    rw [exec_setup_setupStep (s := { s with mode := x }) hs, stepSetup_of_entry (s := { s with mode := x }) he]
    by_cases hlast : s.sidx + 1 = s.params.setupSeq.entries.length
    · exact ⟨none, by simp [hlast, complete, goTo, writeEntry, busWrite, State.addr]⟩
    · exact ⟨x, by simp [hlast, goTo, writeEntry, busWrite, State.addr]⟩

/-- Outside the `POLL_ONCE` and `POLL_TX` steps nothing but the latch depends on the mode latch. -/
theorem step_ignores_mode {s t : State} (honce : s.phase ≠ .pollOnce) (htx : s.phase ≠ .pollTx) (h : step s = .next t)
    (x : Option Mode) : ∃ y, step { s with mode := x } = .next { t with mode := y } := by
  obtain ⟨hr, rfl⟩ | ⟨hr, hp, ho, rfl⟩ | ⟨hr, hp, c, rest, e, ho, hd, rfl⟩ | ⟨hr, hp, c, rest, i, ho, hd, rfl⟩ |
    ⟨hr, hp, i, hi, hexec⟩ := step_cases h
  · exact ⟨none, step_reset (s := { s with mode := x }) hr⟩
  · exact ⟨x, step_no_offer hr hp ho⟩
  · exact ⟨x, step_illegal hr hp ho hd⟩
  · obtain ⟨y, hy⟩ := accept_ignores_mode i (takeOffer c rest s) x
    have hstep := step_offered (s := { s with mode := x }) hr hp ho hd
    exact ⟨y, hstep.trans (congrArg Host.Outcome.next hy)⟩
  · rw [step_running (s := { s with mode := x }) hr hp hi]
    exact exec_running_ignores_mode hp honce htx hexec x

/-- R85: a well-formed command other than WRBYTES has no DATA. -/
theorem data_eq_nil_of_wellFormed {i : Instr} (hw : i.wellFormed = true) (hlen : i.payloadLength = 0) :
    i.data = [] := by
  obtain ⟨hfits, -⟩ := Bool.and_eq_true_iff.1 hw
  exact List.eq_nil_of_length_eq_zero ((i.payloadFits_iff.1 hfits).trans hlen)

/-- Acceptance leaves the mode latch, but for READYM, which writes its operand, and for a WRBYTES with L = 0, which
completes. -/
theorem acceptAction_mode (i : Instr) (s : State) :
    (acceptAction i s).mode = s.mode ∨ ((acceptAction i s).mode = none ∧ (acceptAction i s).phase = .idle) ∨
      ∃ m base data, i = .readym m base data ∧ (acceptAction i s).mode = some m := by
  cases i with
  | readym m base data => exact .inr (.inr ⟨m, base, data, rfl, rfl⟩)
  | wrbytes len base data =>
    rw [acceptAction_wrbytes]
    by_cases hlen : len = 0#16
    · rw [if_pos hlen]
      exact .inr (.inl ⟨rfl, rfl⟩)
    · rw [if_neg hlen]
      exact .inl rfl
  | detect | ready | wrchar | flush | setup => exact .inl rfl

/-- Settles O25: what each kind of step does to the latch, and `step_ignores_mode`. -/
theorem modeLatchHasItsWriters : Obligations.ModeLatchHasItsWriters := by
  intro s t h
  refine ⟨?_, fun honce htx => step_ignores_mode honce htx h⟩
  cases step_parts h with
  | resets hr ht =>
    subst ht
    exact .inr (.inl ⟨rfl, rfl⟩)
  | waits hp ht =>
    subst ht
    exact .inl rfl
  | refuses c rest f hp ht =>
    subst ht
    exact .inl rfl
  | starts c rest i hp ho hd hw ht =>
    subst ht
    obtain hsame | hnone | ⟨m, base, data, rfl, hm⟩ := acceptAction_mode i (latch i (takeOffer c rest s))
    · exact .inl hsame
    · exact .inr (.inl hnone)
    · obtain rfl : data = [] := data_eq_nil_of_wellFormed hw rfl
      exact .inr (.inr (.inr ⟨hp, m, base, rest, by rw [encodeOfDecode c _ hd, ho], hm⟩))
  | transacts i e u hr hu ht =>
    obtain hmode | hnone := ht.mode
    · rw [hmode]
      cases hu with
      | readTe hp => exact .inr (.inr (.inl ⟨hp, rfl⟩))
      | readFe | readLsr | writeChar | writeNext | writeEntry => exact .inl rfl
    · exact .inr (.inl hnone)

/-- Settles O26: `FLAG_TE` latches the mode detected, and the two phases of the loop keep it or complete. -/
theorem wrbytesLatchesItsModeOnce : Obligations.WrbytesLatchesItsModeOnce := by
  intro s t len base data h
  refine ⟨fun hp => ?_, fun hp => ?_⟩
  · rw [exec_transmit_flagTe (by simp [Instr.phases]) hp] at h
    injection h with h
    subst h
    rfl
  obtain hp | hp := hp
  · rw [exec_pollTx (by simp [Instr.phases]) hp] at h
    obtain ⟨m, hm, rfl⟩ := stepPollTx_next h
    refine .inr ⟨?_, rfl⟩
    rw [goTo_phase]
    split
    · exact .inr rfl
    · exact .inl rfl
  · obtain ⟨v, -, rfl⟩ := exec_wrbytes_writeThr_next hp h
    split
    · exact .inl ⟨rfl, rfl⟩
    · exact .inr ⟨.inl rfl, rfl⟩

/-! ### The bytes stored -/

theorem byteAt_of_not_bus {e : Event} (h : e.isBus = false) (x : Word) : e.byteAt x = none := by
  cases e with
  | accept | resp => rfl
  | rd | wr => cases h

/-- A command's step stores what its transaction stores, and in `IDLE` it stores nothing. -/
theorem exec_lastWritten {i : Instr} {s t : State} (h : exec i s = .next t) :
    (s.phase = .idle ∧ ∀ x, lastWritten t.trace x = lastWritten s.trace x) ∨
    ∃ e u, Transacts i.op s e u ∧ ∀ x, lastWritten t.trace x = (e.byteAt x).or (lastWritten s.trace x) := by
  by_cases hp : s.phase = .idle
  · obtain ⟨es, htrace, hes⟩ := exec_idle_no_bus hp h
    refine .inl ⟨hp, fun x => ?_⟩
    rw [htrace, lastWritten_append_of_all_none fun e he => byteAt_of_not_bus (hes e he) x]
  · obtain ⟨e, u, hu, ht⟩ := exec_transacts hp h
    obtain ⟨es, htrace, hes⟩ := ht.trace_no_bus
    refine .inr ⟨e, u, hu, fun x => ?_⟩
    rw [htrace, lastWritten_append_of_all_none fun e he => byteAt_of_not_bus (hes e he) x, hu.trace,
      lastWritten_append]
    simp [lastWritten]

/-- The three commands whose step can store a byte are WRCHAR, WRBYTES and SETUP. -/
theorem Transacts.byteAt_eq_none {op : BitVec 4} {s u : State} {e : Event} (h : Transacts op s e u) (h3 : op ≠ 0x3#4)
    (h4 : op ≠ 0x4#4) (h6 : op ≠ 0x6#4) (x : Word) : e.byteAt x = none := by
  cases h with
  | readFe | readTe | readLsr => rfl
  | writeChar _ hop => exact absurd hop h3
  | writeNext _ hop => exact absurd hop h4
  | writeEntry _ hop => exact absurd hop h6

/-- Settles O39: none of the four commands makes a write. -/
theorem readingCommandsStoreNothing : Obligations.ReadingCommandsStoreNothing := by
  intro s t m base data i hi h x
  have hop : i.op ≠ 0x3#4 ∧ i.op ≠ 0x4#4 ∧ i.op ≠ 0x6#4 := by
    simp only [List.mem_cons, List.not_mem_nil, or_false] at hi
    obtain rfl | rfl | rfl | rfl := hi <;> simp [Instr.op]
  obtain ⟨h3, h4, h6⟩ := hop
  obtain ⟨-, hsame⟩ | ⟨e, u, hu, hbyte⟩ := exec_lastWritten h
  · exact hsame x
  · rw [hbyte, hu.byteAt_eq_none h3 h4 h6, Option.none_or]

/-- The write of a transmit in `WRITE_THR`: the command's byte, or the next of its buffer, to THR. -/
theorem Transacts.eq_wr_of_writeThr {op : BitVec 4} {s u : State} {e : Event} (h : Transacts op s e u)
    (hp : s.phase = .writeThr) :
    ∃ v, e = .wr (s.addr Const.offThr) (.byte v) ∧ (if op = 3#4 then some s.cmd.b else s.cmd.data[s.idx]?) = some v := by
  cases h with
  | writeChar _ hop => exact ⟨_, rfl, by simp [hop]⟩
  | writeNext _ hop hv => exact ⟨_, rfl, by simp [hop, hv]⟩
  | readFe hp' | readTe hp' | readLsr hp' | writeEntry hp' => simp [hp] at hp'

/-- Settles O40: the one write of a transmit is that of `WRITE_THR`. -/
theorem transmitStoresOnlyAtThr : Obligations.TransmitStoresOnlyAtThr := by
  intro s t b len base data i hi h
  have hop : i.op ≠ 0x6#4 := by
    simp only [List.mem_cons, List.not_mem_nil, or_false] at hi
    obtain rfl | rfl := hi <;> simp [Instr.op]
  obtain ⟨hidle, hsame⟩ | ⟨e, u, hu, hbyte⟩ := exec_lastWritten h
  · have hne : s.phase ≠ .writeThr := by simp [hidle]
    exact ⟨fun _ => hsame, fun hp => absurd hp hne, fun hp => absurd hp hne⟩
  refine ⟨fun hp x => ?_, fun hp x hx => ?_, fun hp => ?_⟩
  · cases hu with
    | readFe | readTe | readLsr => rw [hbyte]; rfl
    | writeChar hp' | writeNext hp' => exact absurd hp' hp
    | writeEntry _ hop' => exact absurd hop' hop
  · obtain ⟨v, rfl, -⟩ := hu.eq_wr_of_writeThr hp
    rw [hbyte, byteAt_wr_byte_ne v hx, Option.none_or]
  · obtain ⟨v, rfl, hv⟩ := hu.eq_wr_of_writeThr hp
    rw [hbyte, byteAt_wr_byte_self, hv, Option.some_or]

/-- R53: byte number k of a 32-bit write lies k above its address. -/
theorem byteAt_wr_word (a : Word) (v : Word) {k : Nat} (hk : k < 4) :
    (Event.wr a (.word v)).byteAt (a + BitVec.ofNat 32 k) = some (v.extractLsb' (8 * k) 8) := by
  have hoff : (a + BitVec.ofNat 32 k - a).toNat = k := by bv_omega
  rw [Event.byteAt, hoff]
  interval_cases k <;> rfl

theorem Transacts.eq_wr_of_setupStep {op : BitVec 4} {s u : State} {ev : Event} {e : SetupEntry}
    (h : Transacts op s ev u) (hp : s.phase = .setupStep) (he : s.params.setupSeq.entries[s.sidx]? = some e) :
    ev = .wr (s.addr e.off) e.value := by
  cases h with
  | writeEntry _ _ he' =>
    obtain rfl := Option.some.inj (he'.symm.trans he)
    rfl
  | readFe hp' | readTe hp' | readLsr hp' | writeChar hp' | writeNext hp' => simp [hp] at hp'

/-- Settles O41: the one write of a SETUP is that of `SETUP_STEP`. -/
theorem setupStoresOnlyItsEntry : Obligations.SetupStoresOnlyItsEntry := by
  intro s t base data h
  obtain ⟨hidle, hsame⟩ | ⟨e, u, hu, hbyte⟩ := exec_lastWritten h
  · exact ⟨fun _ => hsame, fun _ hp => absurd hp (by simp [hidle])⟩
  refine ⟨fun hp x => ?_, fun e hp he => ?_⟩
  · cases hu with
    | readFe | readTe | readLsr => rw [hbyte]; rfl
    | writeChar _ hop | writeNext _ hop => exact absurd hop (by simp [Instr.op])
    | writeEntry hp' => exact absurd hp' hp
  · obtain rfl := hu.eq_wr_of_setupStep hp he
    refine ⟨fun x hx => ?_, fun v hv => ?_, fun v hv k hk => ?_⟩
    · rw [hbyte, byteAt_wr_outside _ hx, Option.none_or]
    · rw [hbyte, hv, byteAt_wr_byte_self, Option.some_or]
    · rw [hbyte, hv, byteAt_wr_word _ v hk, Option.some_or]

end Sys2Proof.Machine
end

section
/-! PROOFS. Single steps: which command a step belongs to, its acceptance and its refusals (60_exceptions.md section 3), the
flag reads and the transmit poll, and the model's own stops. -/

namespace Sys2Proof.Machine

/-! ### The command of a step -/

/-- Settles O7: in `IDLE` the command's meaning is its acceptance. -/
theorem stepRunsTheOfferedCommand : Obligations.StepRunsTheOfferedCommand := by
  intro s c rest i hr hp ho hd
  rw [step_offered hr hp ho hd]
  exact (exec_idle (s := takeOffer c rest s) hp i).symm

/-- Settles O8: the latch of a decoded word is the latch of its command. -/
theorem stepRunsTheLatchedCommand : Obligations.StepRunsTheLatchedCommand := by
  intro s c i hr hp hd hcmd
  exact step_latched hr hp (hcmd.trans (latchOf_of_decode hd).symm)

/-- Settles O30, by induction on the number of steps. -/
theorem idleBlockStaysIdle : Obligations.IdleBlockStaysIdle := by
  intro n s hs
  obtain ⟨hp, ho, hr⟩ := hs
  induction n with
  | zero => rfl
  | succ n ih => rw [run_succ (step_no_offer hr hp ho), ih]

/-! ### Acceptance -/

/-- The verdict on an offer (R162): every idle block refuses it with one and the same fault, or every one starts it. -/
theorem offer_verdict (c : Command) :
    (∃ f, ∀ (s : State) (rest : List Command), s.resetReq = false → s.phase = .idle → s.offers = c :: rest →
      step s = .next (raiseFault f (takeOffer c rest s))) ∨
    ∃ i, ∀ (s : State) (rest : List Command), s.resetReq = false → s.phase = .idle → s.offers = c :: rest →
      step s = .next (acceptAction i (latch i (takeOffer c rest s))) := by
  rcases hd : decode c with e | i
  · exact .inl ⟨.illegal, fun s rest hr hp ho => step_illegal hr hp ho hd⟩
  by_cases hlength : i.data.length = i.payloadLength
  · by_cases hbase : i.base.extractLsb' 0 2 = 0#2
    · exact .inr ⟨i, fun s rest hr hp ho =>
        step_accepts hr hp ho hd (wellFormed_of_length_of_aligned hlength hbase)⟩
    · exact .inl ⟨.align, fun s rest hr hp ho => by
        rw [step_offered hr hp ho hd, accept_of_misaligned hlength hbase]⟩
  · exact .inl ⟨.length, fun s rest hr hp ho => by rw [step_offered hr hp ho hd, accept_of_length_ne hlength]⟩

/-- A command that starts is answered with no fault in that step. -/
theorem acceptAction_no_fault (i : Instr) (c : Command) (rest : List Command) (s : State) (f : FaultCode) :
    (acceptAction i (latch i (takeOffer c rest s))).trace ≠ s.trace ++ [.accept c, .resp (.fault f) 0#32] := by
  obtain ⟨m, hm⟩ := acceptAction_concludes i (latch i (takeOffer c rest s))
  obtain ⟨-, -, htrace⟩ | ⟨-, htrace⟩ := hm.response <;> simp [htrace]

/-- Settles O10: the offer alone fixes the verdict, and only a refusal leaves a fault response. -/
theorem refusalDependsOnTheCommandAlone : Obligations.RefusalDependsOnTheCommandAlone := by
  rintro s s' c rest rest' f hr hp ho hr' hp' ho' ⟨t, hstep, htrace⟩
  obtain ⟨g, hrefuses⟩ | ⟨i, hstarts⟩ := offer_verdict c
  · obtain rfl := Host.Outcome.next.inj ((hrefuses s rest hr hp ho).symm.trans hstep)
    obtain rfl : g = f := by simpa using htrace
    exact ⟨_, hrefuses s' rest' hr' hp' ho', by simp⟩
  · obtain rfl := Host.Outcome.next.inj ((hstarts s rest hr hp ho).symm.trans hstep)
    exact absurd htrace (acceptAction_no_fault i c rest s f)

/-- In `IDLE` a well-formed command starts with its acceptance action. -/
theorem exec_idle_of_wellFormed {s : State} {i : Instr} (hp : s.phase = .idle) (hw : i.wellFormed = true) :
    exec i s = .next (acceptAction i (latch i s)) := by
  rw [exec_idle hp, accept_of_wellFormed hw]

/-- Settles O11: each command's acceptance action, from its latch. -/
theorem acceptedCommandsStart : Obligations.AcceptedCommandsStart := by
  intro s base hp hbase started
  have starts {i : Instr} (hdata : i.data.length = i.payloadLength) (hi : i.base.extractLsb' 0 2 = 0#2) :
      exec i s = .next (acceptAction i (latch i s)) :=
    exec_idle_of_wellFormed hp (wellFormed_of_length_of_aligned hdata hi)
  refine ⟨starts rfl hbase, starts rfl hbase, fun b => starts rfl hbase, fun len data hdata hne => ?_, starts rfl hbase,
    starts rfl hbase, starts rfl hbase, starts rfl hbase⟩
  have hlen : len ≠ 0#16 := by
    rintro rfl
    exact hne (List.eq_nil_of_length_eq_zero hdata)
  rw [starts (i := .wrbytes len base data) hdata hbase, acceptAction_wrbytes, if_neg hlen]
  rfl

/-! ### The flag reads and the transmit poll -/

/-- R107: the word a DETECT reports. -/
theorem b2w_beq_fifo (m : Mode) : b2w (m == .fifo) = if m = .fifo then 1#32 else 0#32 := by
  rw [beq_eq_decide, b2w_decide]

/-- Settles O13: `FLAG_FE` is one step for the four commands, and `FLAG_TE` latches the mode and goes on, or completes. -/
theorem modeDetectionReadsFeThenTe : Obligations.ModeDetectionReadsFeThenTe := by
  intro s b len base data w te m after
  refine ⟨fun hp i hi => ?_, fun hp => ⟨?_, ?_, ?_, ?_⟩⟩
  · have hphase : Phase.flagFe ∈ i.phases := by
      simp only [List.mem_cons, List.not_mem_nil, or_false] at hi
      obtain rfl | rfl | rfl | rfl := hi <;> simp [Instr.phases]
    exact exec_flagFe hphase hp
  · rw [exec_detect_flagTe hp, b2w_beq_fifo]
    simp [complete, goTo, readTe, busRead, State.addr, State.answer, State.detected, flagSet, modeOf, Const.offTe, w,
      te, m, after]
  · exact exec_ready_flagTe hp base data
  · exact exec_transmit_flagTe (by simp [Instr.phases]) hp
  · exact exec_transmit_flagTe (by simp [Instr.phases]) hp

/-- Settles O15: `POLL_TX` belongs to both commands, and the ready predicate decides where it goes. -/
theorem transmitPollReadsLsrUntilReady : Obligations.TransmitPollReadsLsrUntilReady := by
  intro s m b len base data hp hm w i hi
  have hphase : Phase.pollTx ∈ i.phases := by
    simp only [List.mem_cons, List.not_mem_nil, or_false] at hi
    obtain rfl | rfl := hi <;> simp [Instr.phases]
  have hanswer : s.answer = w := rfl
  rw [exec_pollTx hphase hp, stepPollTx_of_mode hm, ready_eq, hanswer]
  by_cases hready : w.getLsbD 5 = (m == .legacy)
  · rw [if_pos (decide_eq_true hready), if_pos hready]
    rfl
  · rw [if_neg (by simpa using hready), if_neg hready]
    rfl

/-! ### The model's own stops -/

/-- A command's meaning in a phase that is none of its own (log entry 9). -/
theorem exec_of_not_mem_phases {i : Instr} {s : State} (hp : s.phase ≠ .idle) (hi : s.phase ∉ i.phases) :
    exec i s = .fault .strayPhase := by
  cases hs : s.phase
  case idle => exact absurd hs hp
  all_goals
    rw [hs] at hi
    cases i <;>
      simp [Instr.phases, exec, execDetect, execReady, execWrchar, execWrbytes, execFlush, execSetup, execReadym,
        hs] at hi ⊢

/-- Settles O19: a foreign phase, and in a phase of the command the value that is missing. -/
theorem commandsStopOutsideTheirPhases : Obligations.CommandsStopOutsideTheirPhases := by
  intro s i
  refine ⟨exec_of_not_mem_phases, fun hi hp hm => ?_, fun hp hop hend => ?_, fun hp hop hend => ?_⟩
  · obtain hp | hp := hp
    · rw [hp] at hi
      cases i with
      | ready | readym => simp [exec, execReady, execReadym, hp, stepPollOnce, hm]
      | detect | wrchar | wrbytes | flush | setup => simp [Instr.phases] at hi
    · rw [hp] at hi
      rw [exec_pollTx hi hp]
      simp [stepPollTx, hm]
  · obtain ⟨len, base, data, rfl⟩ := eq_wrbytes_of_op hop
    simp [exec, execWrbytes, hp, List.getElem?_eq_none hend]
  · obtain ⟨base, data, rfl⟩ := eq_setup_of_op hop
    rw [exec_setup_setupStep hp]
    simp [stepSetup, List.getElem?_eq_none hend]

end Sys2Proof.Machine
end

section
/-! PROOFS. The parameter SETUP_SEQ: the checks on a list, and the conditions of 42_drain_and_setup.md rule R143. -/

namespace Sys2Proof.Machine

theorem purpose_mem_all (p : Purpose) : p ∈ Purpose.all := by
  cases p <;> decide

/-- R143 item 1, the cover. -/
theorem setupCovers_iff (es : List SetupEntry) :
    setupCovers es = true ↔ ∀ p : Purpose, ∃ e ∈ es, p ∈ e.purposes := by
  simp [setupCovers, purpose_mem_all]

theorem notAfter_iff (e f : SetupEntry) :
    e.notAfter f = true ↔ ∀ p ∈ e.purposes, ∀ q ∈ f.purposes, p.rank ≤ q.rank := by
  simp [SetupEntry.notAfter]

/-- R143 item 1, the order. -/
theorem setupOrdered_iff (es : List SetupEntry) :
    setupOrdered es = true ↔ es.Pairwise fun e f => ∀ p ∈ e.purposes, ∀ q ∈ f.purposes, p.rank ≤ q.rank := by
  induction es with
  | nil => simp [setupOrdered]
  | cons e es ih => simp [setupOrdered, ih, notAfter_iff]

theorem purposesOk_iff (e : SetupEntry) : e.purposesOk = true ↔ e.purposes ≠ [] ∧ e.purposes.Nodup := by
  simp [SetupEntry.purposesOk]

/-- R143 item 3. -/
theorem targetOk_iff (e : SetupEntry) :
    e.targetOk = true ↔ e.off ≠ 0x14#32 ∧ e.off ≠ 0x98#32 ∧ e.off ≠ 0xA0#32 ∧ ¬(e.off = 0x00#32 ∧ e.value.size = 4) := by
  simp [SetupEntry.targetOk, Const.offLsr, Const.offFe, Const.offTe, Const.offThr, and_assoc, imp_iff_not_or]

/-- R143 item 4. -/
theorem aligned_iff (e : SetupEntry) : e.aligned = true ↔ (e.value.size = 4 → e.off.extractLsb' 0 2 = 0#2) := by
  simp [SetupEntry.aligned, imp_iff_not_or]

/-- R143: the whole check on a list, condition by condition. -/
theorem setupWellFormed_iff (es : List SetupEntry) :
    setupWellFormed es = true ↔ es ≠ [] ∧ setupCovers es = true ∧ setupOrdered es = true ∧
      (∀ e ∈ es, e.purposesOk = true) ∧ (∀ e ∈ es, e.targetOk = true) ∧ ∀ e ∈ es, e.aligned = true := by
  simp [setupWellFormed, and_assoc, forall_and]

theorem ofList?_isSome (es : List SetupEntry) : (SetupSeq.ofList? es).isSome = true ↔ setupWellFormed es = true := by
  unfold SetupSeq.ofList?
  split <;> simp [*]

/-- Settles O60: the check is the conjunction of its conditions, each of which is its rule in words. -/
theorem illFormedSetupSeqIsRefused : Obligations.IllFormedSetupSeqIsRefused := by
  intro es
  refine ⟨?_, fun q => dif_pos q.wellFormed⟩
  simp only [ofList?_isSome, setupWellFormed_iff, setupCovers_iff, setupOrdered_iff, purposesOk_iff, targetOk_iff,
    aligned_iff]

end Sys2Proof.Machine
end

section
/-! PROOFS. Polls: the state after a number of LSR reads, the poll that never ends, and FLUSH from its offer to its response
(42_drain_and_setup.md rules R140 to R142). -/

namespace Sys2Proof.Machine

/-! ### After n polls -/

/-- The state s after n reads of LSR. -/
def afterPolls (n : Nat) (s : State) : State :=
  { s with
    answers := s.answers.drop n
    reads := s.reads + n
    trace := s.trace ++ readTrace (s.addr Const.offLsr) s.answerAt 0 n }

theorem afterPolls_zero (s : State) : afterPolls 0 s = s := by
  simp [afterPolls, readTrace]

@[simp] theorem afterPolls_answerAt (n : Nat) (s : State) (k : Nat) :
    (afterPolls n s).answerAt k = s.answerAt (n + k) := by
  simp [afterPolls, State.answerAt, Nat.add_assoc]

theorem afterPolls_answer (n : Nat) (s : State) : (afterPolls n s).answer = s.answerAt n :=
  afterPolls_answerAt n s 0

theorem readTrace_succ_last (a : Word) (f : Nat → Word) (off n : Nat) :
    readTrace a f off (n + 1) = readTrace a f off n ++ [.rd a (f (off + n))] := by
  simp [readTrace, List.range_succ]

/-- One more read of LSR is one more poll. -/
theorem busRead_afterPolls (n : Nat) (s : State) :
    busRead (s.addr Const.offLsr) (afterPolls n s) = afterPolls (n + 1) s := by
  have htrace := readTrace_succ_last (s.addr Const.offLsr) s.answerAt 0 n
  rw [Nat.zero_add] at htrace
  rw [busRead, afterPolls_answer]
  simp [afterPolls, htrace, Nat.add_assoc]

/-- A step that polls and stays in its phase, while the answers keep it there, is a run that only reads LSR. -/
theorem run_polls {p : Phase} {s : State} {n : Nat}
    (h : ∀ j < n, step (goTo p (afterPolls j s)) = .next (goTo p (afterPolls (j + 1) s))) :
    run n (goTo p s) = .next (goTo p (afterPolls n s)) := by
  induction n with
  | zero => rw [afterPolls_zero, run]
  | succ n ih =>
    rw [run_add (ih fun j hj => h j (by omega)) 1, run_succ (h n n.lt_succ_self), run]

/-! ### The idle poll -/

/-- FLUSH's step in `POLL_IDLE` (R140). -/
theorem step_pollIdle {s : State} (hr : s.resetReq = false) (hp : s.phase = .pollIdle) (hop : s.cmd.op = 5#4) :
    step s = .next (stepPollIdle s) := by
  have hi : s.cmd.instr? = some (.flush s.cmd.base s.cmd.data) := by simp [Cmd.instr?, hop]
  rw [step_running hr (by simp [hp]) hi, exec_flush_pollIdle hp]

/-- While bit 6 reads 0 a FLUSH polls on (R142). -/
theorem run_pollIdle {s : State} {n : Nat} (hr : s.resetReq = false) (hop : s.cmd.op = 5#4)
    (hbusy : ∀ j < n, idle (s.answerAt j) = false) :
    run n (goTo .pollIdle s) = .next (goTo .pollIdle (afterPolls n s)) := by
  refine run_polls fun j hj => ?_
  have hnot : idle (goTo .pollIdle (afterPolls j s)).answer = false := by
    rw [← hbusy j hj]
    exact congrArg idle (afterPolls_answer j s)
  rw [step_pollIdle (s := goTo .pollIdle (afterPolls j s)) hr rfl hop, stepPollIdle_of_not_idle hnot,
    ← busRead_afterPolls]
  rfl

/-- The first read with bit 6 = 1 ends a FLUSH (R141). -/
theorem run_pollIdle_to_end {s : State} {k : Nat} (hr : s.resetReq = false) (hop : s.cmd.op = 5#4)
    (hbusy : ∀ j < k, idle (s.answerAt j) = false) (hidle : idle (s.answerAt k) = true) :
    run (k + 1) (goTo .pollIdle s) = .next (complete 0#32 (afterPolls (k + 1) s)) := by
  have hlast : idle (goTo .pollIdle (afterPolls k s)).answer = true := by
    rw [← hidle]
    exact congrArg idle (afterPolls_answer k s)
  have hstep := step_pollIdle (s := goTo .pollIdle (afterPolls k s)) hr rfl hop
  rw [stepPollIdle_of_idle hlast] at hstep
  rw [run_add (run_pollIdle hr hop hbusy) 1, run_succ hstep, run, ← busRead_afterPolls]
  rfl

/-- Settles O57: the first step sets BUSY, if it was not set, and the run is then one of `run_pollIdle`. -/
theorem flushNeverTimesOut : Obligations.FlushNeverTimesOut := by
  intro n s hr hp hop hbusy
  have hrun := run_pollIdle (n := n) hr hop hbusy
  cases n with
  | zero => exact ⟨s, rfl, hp, rfl, by simp [readTrace]⟩
  | succ n =>
    have hstep : step s = step (goTo .pollIdle s) := by
      rw [step_pollIdle hr hp hop, step_pollIdle (s := goTo .pollIdle s) hr rfl hop]
      rfl
    refine ⟨goTo .pollIdle (afterPolls (n + 1) s), ?_, rfl, rfl, rfl⟩
    rw [← hrun, run, run, hstep]

/-- Only FLUSH polls for an idle transmitter (R21). -/
theorem op_of_pollIdle_mem {i : Instr} (h : .pollIdle ∈ i.phases) : i.op = 5#4 := by
  cases i <;> simp [Instr.phases, Instr.op] at h ⊢

/-- The word of FLUSH (R84). -/
theorem decode_flush (base : Word) (data : List Byte) :
    decode ⟨0x00000005#32, base, data⟩ = .ok (.flush base data) := by
  simp [decode_eq]

/-- Settles O52: acceptance, and the polls to the first idle read. -/
theorem flushEndsOnTheFirstIdleRead : Obligations.FlushEndsOnTheFirstIdleRead := by
  intro s base rest k hr hp hbase ho hbusy hidle
  let c : Command := ⟨0x00000005#32, base, []⟩
  let u := latch (.flush base []) (takeOffer c rest s)
  have haccept : step s = .next (goTo .pollIdle u) :=
    step_accepts hr hp ho (decode_flush base []) (wellFormed_of_length_of_aligned rfl hbase)
  have hpolls : run (k + 1) (goTo .pollIdle u) = .next (complete 0#32 (afterPolls (k + 1) u)) :=
    run_pollIdle_to_end hr rfl hbusy hidle
  exact ⟨_, (run_succ haccept (k + 1)).trans hpolls, rfl, rfl, rfl, rfl, rfl⟩

/-- Settles O59: the first idle answer is the one that ends the run. -/
theorem flushEndsIfEventuallyIdle : Obligations.FlushEndsIfEventuallyIdle := by
  intro s hinv hr hp hev
  obtain ⟨i, hruns, hphase⟩ := hinv.runs (by simp [hp])
  have hop : s.cmd.op = 5#4 := by
    rw [hruns.cmd]
    exact op_of_pollIdle_mem (hp ▸ hphase)
  have hbusy : ∀ j < Nat.find hev, idle (s.answerAt j) = false := fun j hj => by
    simpa using Nat.find_min hev hj
  have hrun := run_pollIdle_to_end hr hop hbusy (Nat.find_spec hev)
  rw [goTo_self hp (by rw [hinv.busy, hp])] at hrun
  exact ⟨_, _, _, hrun, rfl, rfl, rfl⟩

end Sys2Proof.Machine
end

section
/-! PROOFS. Transmits: WRCHAR and WRBYTES from the offer to the response, the writes of a WRBYTES, and the end of a transmit
whose peripheral is ready often enough (41_transmit.md rules R120 to R127, 10_state.md rule R37). -/

namespace Sys2Proof.Machine

/-! ### Polls and writes -/

/-- While no answer is ready a transmit polls on (R120). -/
theorem run_pollTx {s : State} {m : Mode} {n : Nat} (hr : s.resetReq = false) (hm : s.mode = some m)
    (hop : s.cmd.op = 3#4 ∨ s.cmd.op = 4#4) (hnot : ∀ j < n, ready m (s.answerAt j) = false) :
    run n (goTo .pollTx s) = .next (goTo .pollTx (afterPolls n s)) := by
  refine run_polls fun j hj => ?_
  have hready : ready m (goTo .pollTx (afterPolls j s)).answer = false := by
    rw [← hnot j hj]
    exact congrArg (ready m) (afterPolls_answer j s)
  rw [step_pollTx_not_ready (s := goTo .pollTx (afterPolls j s)) hr rfl hm hop hready, ← busRead_afterPolls]
  rfl

/-- The first ready answer ends the polls (R120). -/
theorem run_pollTx_to_write {s : State} {m : Mode} {k : Nat} (hr : s.resetReq = false) (hm : s.mode = some m)
    (hop : s.cmd.op = 3#4 ∨ s.cmd.op = 4#4) (hnot : ∀ j < k, ready m (s.answerAt j) = false)
    (hready : ready m (s.answerAt k) = true) :
    run (k + 1) (goTo .pollTx s) = .next (goTo .writeThr (afterPolls (k + 1) s)) := by
  have hlast : ready m (goTo .pollTx (afterPolls k s)).answer = true := by
    rw [← hready]
    exact congrArg (ready m) (afterPolls_answer k s)
  have hstep := step_pollTx (s := goTo .pollTx (afterPolls k s)) hr rfl hm hop
  rw [if_pos hlast] at hstep
  rw [run_add (run_pollTx hr hm hop hnot) 1, run_succ hstep, run, ← busRead_afterPolls]
  rfl

/-- The state s after the polls and the write of each byte. -/
def afterBytes : List (Byte × Nat) → State → State
  | [], s => s
  | (d, k) :: rest, s => afterBytes rest (writeThr d (afterPolls (k + 1) s))

theorem afterBytes_status (ps : List (Byte × Nat)) (s : State) : (afterBytes ps s).status = s.status := by
  induction ps generalizing s with
  | nil => rfl
  | cons p ps ih => exact ih _

theorem afterBytes_offers (ps : List (Byte × Nat)) (s : State) : (afterBytes ps s).offers = s.offers := by
  induction ps generalizing s with
  | nil => rfl
  | cons p ps ih => exact ih _

theorem afterBytes_idx (ps : List (Byte × Nat)) (s : State) : (afterBytes ps s).idx = s.idx + ps.length := by
  induction ps generalizing s with
  | nil => rfl
  | cons p ps ih =>
    have hidx : (writeThr p.1 (afterPolls (p.2 + 1) s)).idx = s.idx + 1 := rfl
    rw [afterBytes, ih, hidx, List.length_cons]
    omega

/-- Answers that are the same from two places on give the same events. -/
theorem transmitTrace_congr {f g : Nat → Word} {off off' : Nat} (h : ∀ j, f (off + j) = g (off' + j)) (lsr thr : Word)
    (ps : List (Byte × Nat)) : transmitTrace lsr thr f off ps = transmitTrace lsr thr g off' ps := by
  induction ps generalizing off off' with
  | nil => rfl
  | cons p ps ih =>
    obtain ⟨d, k⟩ := p
    have hrest (j : Nat) : f (off + k + 1 + j) = g (off' + k + 1 + j) := by
      simpa only [Nat.add_assoc] using h (k + (1 + j))
    rw [transmitTrace, transmitTrace, ih hrest]
    simp only [readTrace, h]

/-- Answers that are the same from two places on end the same polls. -/
theorem pollsEnd_congr {m : Mode} {f g : Nat → Word} {off off' : Nat} (h : ∀ j, f (off + j) = g (off' + j))
    (ps : List (Byte × Nat)) : PollsEnd m f off ps ↔ PollsEnd m g off' ps := by
  induction ps generalizing off off' with
  | nil => rfl
  | cons p ps ih =>
    obtain ⟨d, k⟩ := p
    have hrest (j : Nat) : f (off + k + 1 + j) = g (off' + k + 1 + j) := by
      simpa only [Nat.add_assoc] using h (k + (1 + j))
    simp only [PollsEnd, h, ih hrest]

/-- After the polls and the write of a byte the coming answers are those behind its polls. -/
theorem answerAt_after_byte (d : Byte) (k : Nat) (s : State) (j : Nat) :
    (writeThr d (afterPolls (k + 1) s)).answerAt (0 + j) = s.answerAt (0 + k + 1 + j) := by
  simp

theorem afterBytes_trace (ps : List (Byte × Nat)) (s : State) :
    (afterBytes ps s).trace =
      s.trace ++ transmitTrace (s.addr Const.offLsr) (s.addr Const.offThr) s.answerAt 0 ps := by
  induction ps generalizing s with
  | nil => simp [afterBytes, transmitTrace]
  | cons p ps ih =>
    obtain ⟨d, k⟩ := p
    rw [afterBytes, ih, transmitTrace_congr (answerAt_after_byte d k s)]
    simp [afterPolls, transmitTrace, State.addr]

/-! ### The two transmits, from their first poll on -/

/-- WRCHAR polls until ready, writes its byte and completes (R122). -/
theorem run_wrchar {s : State} {m : Mode} {k : Nat} (hr : s.resetReq = false) (hm : s.mode = some m)
    (hop : s.cmd.op = 3#4) (hpolls : PollsEnd m s.answerAt 0 [(s.cmd.b, k)]) :
    run (k + 2) (goTo .pollTx s) = .next (complete 0#32 (afterBytes [(s.cmd.b, k)] s)) := by
  simp only [PollsEnd, Nat.zero_add, and_true] at hpolls
  obtain ⟨hnot, hready⟩ := hpolls
  have hi : s.cmd.instr? = some (.wrchar s.cmd.b s.cmd.base s.cmd.data) := by simp [Cmd.instr?, hop]
  have hwrite : step (goTo .writeThr (afterPolls (k + 1) s)) = .next (complete 0#32 (afterBytes [(s.cmd.b, k)] s)) :=
    (step_running (s := goTo .writeThr (afterPolls (k + 1) s)) hr (by simp) hi).trans
      (exec_wrchar_writeThr rfl _ _ _)
  rw [run_add (run_pollTx_to_write hr hm (.inl hop) hnot hready) 1, run_succ hwrite, run]

/-- A byte write of WRBYTES (R121). -/
theorem step_wrbytes_writeThr {s : State} {v : Byte} (hr : s.resetReq = false) (hop : s.cmd.op = 4#4)
    (hv : s.cmd.data[s.idx]? = some v) :
    step (goTo .writeThr s) = .next (if s.idx + 1 = s.cmd.len.toNat then complete 0#32 (writeThr v s)
      else goTo .pollTx (writeThr v s)) := by
  have hi : s.cmd.instr? = some (.wrbytes s.cmd.len s.cmd.base s.cmd.data) := by simp [Cmd.instr?, hop]
  rw [step_running (s := goTo .writeThr s) hr (by simp) hi, exec_wrbytes_writeThr (s := goTo .writeThr s) rfl hv]
  rfl

/-- The polls and the write of one byte of a WRBYTES (R123). -/
theorem run_wrbytes_byte {s : State} {m : Mode} {d : Byte} {k : Nat} (hr : s.resetReq = false) (hm : s.mode = some m)
    (hop : s.cmd.op = 4#4) (hd : s.cmd.data[s.idx]? = some d) (hnot : ∀ j < k, ready m (s.answerAt j) = false)
    (hready : ready m (s.answerAt k) = true) :
    run (k + 2) (goTo .pollTx s) = .next (if s.idx + 1 = s.cmd.len.toNat then
      complete 0#32 (writeThr d (afterPolls (k + 1) s)) else goTo .pollTx (writeThr d (afterPolls (k + 1) s))) := by
  have hwrite := step_wrbytes_writeThr (s := afterPolls (k + 1) s) hr hop hd
  exact (run_add (run_pollTx_to_write hr hm (.inr hop) hnot hready) 1).trans (run_succ hwrite 0)

/-- WRBYTES polls and writes for each byte left, in order, and completes (R123). -/
theorem run_wrbytes {s : State} {m : Mode} {ps : List (Byte × Nat)} (hr : s.resetReq = false) (hm : s.mode = some m)
    (hop : s.cmd.op = 4#4) (hne : ps ≠ []) (hdata : s.cmd.data.drop s.idx = ps.map Prod.fst)
    (hlen : s.idx + ps.length = s.cmd.len.toNat) (hpolls : PollsEnd m s.answerAt 0 ps) :
    run (transmitSteps ps) (goTo .pollTx s) = .next (complete 0#32 (afterBytes ps s)) := by
  induction ps generalizing s with
  | nil => exact absurd rfl hne
  | cons p rest ih =>
    obtain ⟨d, k⟩ := p
    obtain ⟨hnot, hready, hrest⟩ := hpolls
    simp only [Nat.zero_add] at hnot hready
    rw [List.length_cons] at hlen
    have hd : s.cmd.data[s.idx]? = some d := by
      simpa using congrArg List.head? hdata
    have hbyte := run_wrbytes_byte hr hm hop hd hnot hready
    cases rest with
    | nil =>
      exact hbyte.trans (congrArg _ (if_pos hlen))
    | cons q rest =>
      have hmore : s.idx + 1 ≠ s.cmd.len.toNat := by
        rw [List.length_cons] at hlen
        omega
      rw [if_neg hmore] at hbyte
      have hdata' : s.cmd.data.drop (s.idx + 1) = (q :: rest).map Prod.fst := by
        simpa using congrArg List.tail hdata
      have hlen' : s.idx + 1 + (q :: rest).length = s.cmd.len.toNat := by omega
      have hrest' := (pollsEnd_congr (answerAt_after_byte d k s) (q :: rest)).2 hrest
      rw [transmitSteps, run_add hbyte]
      exact ih (s := writeThr d (afterPolls (k + 1) s)) hr hm hop (List.cons_ne_nil q rest) hdata' hlen' hrest'

/-! ### From the offer to the first poll -/

/-- Three steps after its offer a transmit that does not complete at acceptance polls for its first byte, in the mode
of its own flag reads (R122, R123). -/
theorem run_to_first_poll {s : State} {c : Command} {rest : List Command} {i : Instr} (hr : s.resetReq = false)
    (hp : s.phase = .idle) (ho : s.offers = c :: rest) (hd : decode c = .ok i) (hw : i.wellFormed = true)
    (hi : .flagFe ∈ i.phases) (hpoll : .pollTx ∈ i.phases) (hact : ∀ t, acceptAction i t = goTo .flagFe t) :
    run 3 s = .next (goTo .pollTx (readTe (atFlagTe i c rest s))) := by
  have hte : step (atFlagTe i c rest s) = .next (goTo .pollTx (readTe (atFlagTe i c rest s))) :=
    (step_atFlagTe i c rest hr).trans (exec_transmit_flagTe hpoll rfl)
  rw [run_add (run_two_atFlagTe hr hp ho hd hw hi hact) 1, run_succ hte, run]

/-- The answers to the polls of a transmit are those after the two flag reads. -/
theorem readTe_atFlagTe_answerAt (i : Instr) (c : Command) (rest : List Command) (s : State) (j : Nat) :
    (readTe (atFlagTe i c rest s)).answerAt (0 + j) = s.answerAt (2 + j) := by
  rw [readTe_answerAt, atFlagTe_answerAt]
  congr 1
  omega

/-- The events of a transmit up to its last write. -/
theorem transmit_trace (i : Instr) (c : Command) (rest : List Command) (s : State) (ps : List (Byte × Nat)) :
    (afterBytes ps (readTe (atFlagTe i c rest s))).trace =
      s.trace ++ [.accept c, .rd (i.base + 0x98#32) (s.answerAt 0), .rd (i.base + 0xA0#32) (s.answerAt 1)] ++
        transmitTrace (i.base + 0x14#32) (i.base + 0x00#32) s.answerAt 2 ps := by
  rw [afterBytes_trace, readTe_atFlagTe_trace, transmitTrace_congr (readTe_atFlagTe_answerAt i c rest s)]
  rfl

theorem eq_ite_of_eq_fifo_iff {m : Mode} {P : Prop} [Decidable P] (h : m = .fifo ↔ P) :
    m = if P then .fifo else .legacy := by
  by_cases hP : P
  · rw [if_pos hP, h.2 hP]
  · rw [if_neg hP]
    cases m with
    | fifo => exact absurd (h.1 rfl) hP
    | legacy => rfl

/-- R101, with the mode given by a condition. -/
theorem ready_eq_of_eq_fifo_iff {m : Mode} {P : Prop} [Decidable P] (h : m = .fifo ↔ P) (w : Word) :
    ready m w = decide (w.getLsbD 5 = decide (¬P)) := by
  rw [ready_eq, beq_legacy, decide_eq_decide.2 (not_congr h)]

/-- Settles O49: the first poll, and `run_wrchar` from there. -/
theorem wrcharTransmitsItsByte : Obligations.WrcharTransmitsItsByte := by
  intro s b base rest k hr hp hbase ho fifo hnot hready
  let i : Instr := .wrchar b base []
  let c : Command := ⟨0x00000003#32 ||| (b.setWidth 32 <<< 8), base, []⟩
  let v := readTe (atFlagTe i c rest s)
  have hrun : run 3 s = .next (goTo .pollTx v) :=
    run_to_first_poll hr hp ho (decodeOfEncode i) (wellFormed_of_length_of_aligned rfl hbase) (by simp [i, Instr.phases])
      (by simp [i, Instr.phases]) (fun _ => rfl)
  have hmode := ready_eq_of_eq_fifo_iff (atFlagTe_detected_iff i c rest s)
  have hpolls : PollsEnd (atFlagTe i c rest s).detected v.answerAt 0 [(b, k)] := by
    rw [pollsEnd_congr (readTe_atFlagTe_answerAt i c rest s)]
    refine ⟨fun j hj => ?_, ?_, trivial⟩
    · rw [hmode, hnot j hj]
      exact decide_eq_false (by rw [decide_not]; exact Bool.self_ne_not _)
    · rw [hmode, hready]
      exact decide_eq_true rfl
  have hend := run_wrchar (s := v) hr rfl rfl hpolls
  have hsteps : k + 5 = 3 + (k + 2) := by omega
  refine ⟨_, hsteps ▸ (run_add hrun (k + 2)).trans hend, rfl, rfl, rfl, rfl, rfl, rfl, ?_⟩
  rw [complete_trace, transmit_trace]
  simp [transmitTrace, i, c, Instr.base, v, latchOf, atFlagTe]

/-- The word of WRBYTES with L = n (R84). -/
theorem encode_wrbytes {n : Nat} (hn : n ≤ 65535) (base : Word) (data : List Byte) :
    encode (.wrbytes (BitVec.ofNat 16 n) base data) = ⟨0x00000004#32 ||| (BitVec.ofNat 32 n <<< 16), base, data⟩ := by
  have hlen : (BitVec.ofNat 16 n).setWidth 32 = BitVec.ofNat 32 n := by
    apply BitVec.eq_of_toNat_eq
    simp only [BitVec.toNat_setWidth, BitVec.toNat_ofNat]
    omega
  rw [encode, encodeWord, hlen]
  rfl

/-- Settles O50: the first poll, and `run_wrbytes` from there. -/
theorem wrbytesTransmitsItsBuffer : Obligations.WrbytesTransmitsItsBuffer := by
  intro s base rest ps hr hp hbase hne hmax c ho m hpolls
  let i : Instr := .wrbytes (BitVec.ofNat 16 ps.length) base (ps.map Prod.fst)
  let v := readTe (atFlagTe i c rest s)
  have hlen : (BitVec.ofNat 16 ps.length).toNat = ps.length := by
    rw [BitVec.toNat_ofNat]
    omega
  have hpos := List.length_pos_of_ne_nil hne
  have hzero : BitVec.ofNat 16 ps.length ≠ 0#16 := by
    intro hzero
    rw [hzero] at hlen
    simp [← hlen] at hpos
  have hd : decode c = .ok i := by
    rw [show c = encode i from (encode_wrbytes hmax base _).symm]
    exact decodeOfEncode i
  have hw : i.wellFormed = true :=
    wellFormed_of_length_of_aligned (by simp [i, Instr.data, Instr.payloadLength, hlen]) hbase
  have hrun : run 3 s = .next (goTo .pollTx v) :=
    run_to_first_poll hr hp ho hd hw (by simp [i, Instr.phases]) (by simp [i, Instr.phases]) (fun _ => if_neg hzero)
  have hmode : v.mode = some m := congrArg some (eq_ite_of_eq_fifo_iff (atFlagTe_detected_iff i c rest s))
  have hend := run_wrbytes (s := v) (ps := ps) hr hmode rfl hne rfl ((Nat.zero_add _).trans hlen.symm)
    ((pollsEnd_congr (readTe_atFlagTe_answerAt i c rest s) ps).2 hpolls)
  refine ⟨_, (run_add hrun (transmitSteps ps)).trans hend, rfl, rfl, afterBytes_offers ps v, rfl, ?_, ?_, ?_⟩
  · exact (afterBytes_idx ps v).trans (Nat.zero_add _)
  · rw [complete_status, afterBytes_status]
    rfl
  · rw [complete_trace, transmit_trace]
    rfl

/-! ### The writes of a WRBYTES -/

/-- The event right before each write is an LSR read that is ready in mode m (R127). -/
def WritesFollowReady (lsr : Word) (m : Mode) (es : List Event) : Prop :=
  ∀ pre post a d, es = pre ++ .wr a d :: post → ∃ pre' w, pre = pre' ++ [.rd lsr w] ∧ ready m w = true

theorem writesFollowReady_of_no_writes {lsr : Word} {m : Mode} {es : List Event}
    (h : ∀ e ∈ es, e.isWrite = false) : WritesFollowReady lsr m es := by
  rintro pre post a d rfl
  cases h (.wr a d) (by simp)

theorem writesFollowReady_read_write {lsr w thr : Word} {m : Mode} {v : WriteData} (hw : ready m w = true) :
    WritesFollowReady lsr m [.rd lsr w, .wr thr v] := by
  intro pre post a d h
  obtain _ | ⟨e, _ | ⟨e', pre⟩⟩ := pre
  · simp at h
  · simp only [List.cons_append, List.nil_append, List.cons.injEq] at h
    exact ⟨[], w, by rw [← h.1]; rfl, hw⟩
  · simp at h

/-- Each write keeps the event right before it when more events stand around. -/
theorem WritesFollowReady.append {lsr : Word} {m : Mode} {es fs : List Event} (hes : WritesFollowReady lsr m es)
    (hfs : WritesFollowReady lsr m fs) : WritesFollowReady lsr m (es ++ fs) := by
  intro pre post a d h
  obtain ⟨as, rfl, hmid⟩ | ⟨bs, rfl, hmid⟩ := List.append_eq_append_iff.1 h
  · obtain ⟨pre', w, rfl, hw⟩ := hfs as post a d hmid
    exact ⟨es ++ pre', w, by simp, hw⟩
  · obtain _ | ⟨b, bs⟩ := bs
    · obtain ⟨pre', w, hpre, hw⟩ := hfs [] post a d hmid.symm
      simp at hpre
    · obtain ⟨rfl, -⟩ := List.cons.inj hmid
      exact hes pre bs a d rfl

theorem readTrace_no_write_mem (a : Word) (f : Nat → Word) (off n : Nat) :
    ∀ e ∈ readTrace a f off n, e.isWrite = false := by
  simp [readTrace]

/-- The polls of each byte end on a ready read, right before the byte's write. -/
theorem transmitTrace_writesFollowReady {m : Mode} {f : Nat → Word} {off : Nat} {ps : List (Byte × Nat)}
    (h : PollsEnd m f off ps) (lsr thr : Word) : WritesFollowReady lsr m (transmitTrace lsr thr f off ps) := by
  induction ps generalizing off with
  | nil => exact writesFollowReady_of_no_writes (by simp [transmitTrace])
  | cons p ps ih =>
    obtain ⟨d, k⟩ := p
    obtain ⟨-, hready, hrest⟩ := h
    have hsplit : transmitTrace lsr thr f off ((d, k) :: ps) =
        (readTrace lsr f off k ++ [.rd lsr (f (off + k)), .wr thr (.byte d)]) ++
          transmitTrace lsr thr f (off + k + 1) ps := by
      simp [transmitTrace, readTrace_succ_last]
    rw [hsplit]
    exact ((writesFollowReady_of_no_writes (readTrace_no_write_mem lsr f off k)).append
      (writesFollowReady_read_write hready)).append (ih hrest)

/-- Settles O51: in the events of `wrbytesTransmitsItsBuffer` the writes are those of the transmit's polls. -/
theorem wrbytesWritesExactlyItsBytes : Obligations.WrbytesWritesExactlyItsBytes := by
  intro s base rest ps hr hp hbase hne hmax ho m hpolls
  obtain ⟨t, hrun, hphase, -, -, -, -, -, htrace⟩ :=
    wrbytesTransmitsItsBuffer s base rest ps hr hp hbase hne hmax ho hpolls
  rw [List.append_assoc, List.append_assoc] at htrace
  refine ⟨t, _, hrun, hphase, htrace, ?_, ?_⟩
  · simp [List.filter_append, transmitTrace_writes]
  · have hstart (c : Command) (a v a' v' : Word) :
        WritesFollowReady (base + 0x14#32) m [.accept c, .rd a v, .rd a' v'] :=
      writesFollowReady_of_no_writes (by simp)
    have hend : WritesFollowReady (base + 0x14#32) m [.resp .ok 0#32] := writesFollowReady_of_no_writes (by simp)
    exact (hstart _ _ _ _ _).append ((transmitTrace_writesFollowReady hpolls _ _).append hend)

/-! ### A transmit whose peripheral is ready often enough -/

/-- With one ready answer for each byte, from place `off` on, the polls of all the bytes end. -/
theorem exists_pollsEnd {m : Mode} {f : Nat → Word} (bs : List Byte) {ks : List Nat} {off : Nat}
    (hks : ks.Pairwise (· < ·)) (hlen : ks.length = bs.length) (hready : ∀ k ∈ ks, off ≤ k ∧ ready m (f k) = true) :
    ∃ ps : List (Byte × Nat), ps.map Prod.fst = bs ∧ PollsEnd m f off ps := by
  induction bs generalizing ks off with
  | nil => exact ⟨[], rfl, trivial⟩
  | cons b bs ih =>
    obtain _ | ⟨k, ks⟩ := ks
    · simp at hlen
    obtain ⟨hlt, hks⟩ := List.pairwise_cons.1 hks
    obtain ⟨hk, hkready⟩ := hready k List.mem_cons_self
    have hex : ∃ j, ready m (f (off + j)) = true := ⟨k - off, by rwa [Nat.add_sub_cancel' hk]⟩
    have hfirst : Nat.find hex ≤ k - off := Nat.find_min' hex (by rwa [Nat.add_sub_cancel' hk])
    have hlater : ∀ k' ∈ ks, off + Nat.find hex + 1 ≤ k' ∧ ready m (f k') = true := fun k' hk' => by
      have hkk' := hlt k' hk'
      exact ⟨by omega, (hready k' (List.mem_cons_of_mem k hk')).2⟩
    obtain ⟨ps, hps, hend⟩ := ih hks (by simpa using hlen) hlater
    refine ⟨(b, Nat.find hex) :: ps, by rw [List.map_cons, hps], fun j hj => ?_, Nat.find_spec hex, hend⟩
    simpa using Nat.find_min hex hj

theorem ReadyAnswers.exists_pollsEnd {m : Mode} {s : State} {bs : List Byte} (h : ReadyAnswers m s bs.length) :
    ∃ ps : List (Byte × Nat), ps.map Prod.fst = bs ∧ PollsEnd m s.answerAt 0 ps := by
  obtain ⟨ks, hks, hlen, hready⟩ := h
  exact Machine.exists_pollsEnd bs hks hlen fun k hk => ⟨Nat.zero_le k, hready k hk⟩

/-- Only WRCHAR and WRBYTES poll for a transmit (R21). -/
theorem op_of_pollTx_mem {i : Instr} (h : .pollTx ∈ i.phases) : i.op = 3#4 ∨ i.op = 4#4 := by
  cases i <;> simp [Instr.phases, Instr.op] at h ⊢

/-- A transmit that polls, with as many ready answers to come as bytes are left, writes them and completes. -/
theorem Runs.run_transmit {i : Instr} {s : State} {m : Mode} (h : Runs i s) (hi : .pollTx ∈ i.phases)
    (hr : s.resetReq = false) (hm : s.mode = some m)
    (hready : ReadyAnswers m s (if s.cmd.op = 4#4 then s.cmd.len.toNat - s.idx else 1)) :
    ∃ n ps, run n (goTo .pollTx s) = .next (complete 0#32 (afterBytes ps s)) := by
  have hcmd : s.cmd.op = i.op := by rw [h.cmd]; rfl
  obtain hop | hop := op_of_pollTx_mem hi
  · rw [if_neg (by simp [hcmd, hop])] at hready
    obtain ⟨ps, hps, hpolls⟩ := ReadyAnswers.exists_pollsEnd (bs := [s.cmd.b]) hready
    obtain ⟨⟨b, k⟩, rfl, rfl⟩ := List.map_eq_singleton_iff.1 hps
    exact ⟨_, _, run_wrchar hr hm (hcmd.trans hop) hpolls⟩
  · rw [if_pos (hcmd.trans hop)] at hready
    have hlt := h.idx.1 hop
    have hleft : (s.cmd.data.drop s.idx).length = s.cmd.len.toNat - s.idx := by
      rw [List.length_drop, h.data_length hop]
    obtain ⟨ps, hps, hpolls⟩ := ReadyAnswers.exists_pollsEnd (hleft ▸ hready)
    have hcount : ps.length = s.cmd.len.toNat - s.idx := by rw [← hleft, ← hps, List.length_map]
    have hne : ps ≠ [] := List.ne_nil_of_length_pos (by omega)
    exact ⟨_, _, run_wrbytes hr hm (hcmd.trans hop) hne hps.symm (by omega) hpolls⟩

/-- Settles O58: the ready answers end the polls of the bytes left. -/
theorem transmitEndsIfReadyOftenEnough : Obligations.TransmitEndsIfReadyOftenEnough := by
  intro s m hinv hr hp hm hready
  obtain ⟨i, hruns, hphase⟩ := hinv.runs (by simp [hp])
  obtain ⟨n, ps, hrun⟩ := hruns.run_transmit (hp ▸ hphase) hr hm hready
  rw [goTo_self hp (by rw [hinv.busy, hp])] at hrun
  exact ⟨n, _, transmitTrace _ _ _ 0 ps, hrun, rfl, rfl, by rw [complete_trace, afterBytes_trace]⟩

end Sys2Proof.Machine
end

section
/-! PROOFS. Two runs side by side: SETUP from two states (42_drain_and_setup.md section 2), and a WRBYTES of one byte beside
WRCHAR (41_transmit.md section 2). -/

namespace Sys2Proof.Machine

/-! ### SETUP from two states -/

/-- The events of a SETUP in its first n steps: they depend on the offer and on SETUP_SEQ alone (R145, R146). -/
def setupEvents (c : Command) (es : List SetupEntry) : Nat → List Event
  | 0 => []
  | n + 1 => .accept c :: setupTrace c.base (es.take n) ++ if n = es.length then [.resp .ok c.base] else []

/-- Up to its end a SETUP has issued the events of `setupEvents`. -/
theorem run_setup_events {s : State} {base : Word} {rest : List Command} {n : Nat} (hbase : base.extractLsb' 0 2 = 0#2)
    (hr : s.resetReq = false) (hp : s.phase = .idle) (ho : s.offers = ⟨0x00000006#32, base, []⟩ :: rest)
    (hn : n ≤ 1 + s.params.setupSeq.entries.length) :
    ∃ t, run n s = .next t ∧
      t.trace = s.trace ++ setupEvents ⟨0x00000006#32, base, []⟩ s.params.setupSeq.entries n := by
  cases n with
  | zero => exact ⟨s, rfl, by simp [setupEvents]⟩
  | succ n =>
    let c : Command := ⟨0x00000006#32, base, []⟩
    let u := goTo .setupStep (latch (.setup base []) (takeOffer c rest s))
    have haccept : step s = .next u :=
      step_accepts hr hp ho (decode_setup base []) (wellFormed_of_length_of_aligned rfl hbase)
    rw [run_succ haccept]
    by_cases hlast : n = s.params.setupSeq.entries.length
    · subst hlast
      refine ⟨_, run_setup_to_end (s := u) (base := base) (data := []) hr rfl rfl rfl rfl, ?_⟩
      simp [setupEvents, withWritten, u, c, latchOf, Instr.base]
    · have hlt : n < s.params.setupSeq.entries.length := by omega
      refine ⟨_, run_withWritten (s := u) (base := base) (data := []) hr rfl rfl rfl rfl hlt, ?_⟩
      simp [setupEvents, withWritten, u, c, latchOf, Instr.base, hlast]

/-- Settles O54: the events of `run_setup_events` are the same for both states. -/
theorem setupIsIdempotent : Obligations.SetupIsIdempotent := by
  intro s s' base rest rest' hbase hr hp ho hr' hp' ho' hseq n hn
  obtain ⟨t, hrun, htrace⟩ := run_setup_events hbase hr hp ho hn
  obtain ⟨t', hrun', htrace'⟩ := run_setup_events hbase hr' hp' ho' (hseq ▸ hn)
  exact ⟨t, t', _, hrun, hrun', htrace, hseq ▸ htrace'⟩

/-! ### One byte, as a buffer and as a character -/

theorem busEvents_append (es fs : List Event) : busEvents (es ++ fs) = busEvents es ++ busEvents fs :=
  List.filter_append es fs

/-- The state t of a WRCHAR as that of the WRBYTES of its byte, with the events `tr`. -/
def asBuffer (b : Byte) (base : Word) (tr : List Event) (t : State) : State :=
  { t with cmd := latchOf (.wrbytes 1#16 base [b]), trace := tr }

theorem asBuffer_addr {b : Byte} {base : Word} {t : State} (hc : t.cmd = latchOf (.wrchar b base [])) (tr : List Event)
    (off : Word) : (asBuffer b base tr t).addr off = t.addr off := by
  simp [State.addr, asBuffer, hc, latchOf, Instr.base]

/-- The two commands' next reads are one bus event. -/
theorem busEvents_read_asBuffer {b : Byte} {base : Word} {t : State} {tr : List Event}
    (hc : t.cmd = latchOf (.wrchar b base [])) (hbus : busEvents t.trace = busEvents tr) (off : Word) :
    busEvents (t.trace ++ [.rd (t.addr off) t.answer]) =
      busEvents (tr ++ [.rd ((asBuffer b base tr t).addr off) t.answer]) := by
  rw [busEvents_append, busEvents_append, hbus, asBuffer_addr hc]

/-- The WRBYTES writes its byte, the last one, as the WRCHAR does. -/
theorem exec_asBuffer_writeThr {b : Byte} {base : Word} {t : State} (hs : t.phase = .writeThr) (hidx : t.idx = 0)
    (tr : List Event) :
    exec (.wrbytes 1#16 base [b]) (asBuffer b base tr t) =
      .next (complete 0#32 (writeThr b (asBuffer b base tr t))) := by
  have hv : (asBuffer b base tr t).cmd.data[(asBuffer b base tr t).idx]? = some b := by
    simp [asBuffer, latchOf, Instr.data, hidx]
  have hlast : (asBuffer b base tr t).idx + 1 = (asBuffer b base tr t).cmd.len.toNat := by
    simp [asBuffer, latchOf, hidx]
  rw [exec_wrbytes_writeThr (s := asBuffer b base tr t) hs hv, if_pos hlast]

/-- t runs a WRCHAR of b and t' the WRBYTES of that byte, at the same point of the two commands, or both have ended. -/
inductive Twins (b : Byte) (base : Word) : State → State → Prop where
  | running {t : State} {tr : List Event} (hr : t.resetReq = false) (hc : t.cmd = latchOf (.wrchar b base []))
      (hp : t.phase ∈ (Instr.wrchar b base []).phases) (hidx : t.idx = 0)
      (ho : t.offers = []) (hm : t.phase = .pollTx → t.mode.isSome = true)
      (hbus : busEvents t.trace = busEvents tr) :
      Twins b base t (asBuffer b base tr t)
  | ended {t t' : State} (hr : t.resetReq = false) (hp : t.phase = .idle) (ho : t.offers = [])
      (hr' : t'.resetReq = false) (hp' : t'.phase = .idle) (ho' : t'.offers = [])
      (hbus : busEvents t.trace = busEvents t'.trace) : Twins b base t t'

theorem Twins.bus {b : Byte} {base : Word} {t t' : State} (h : Twins b base t t') :
    busEvents t.trace = busEvents t'.trace := by
  cases h <;> assumption

theorem Twins.phase {b : Byte} {base : Word} {t t' : State} (h : Twins b base t t') : t.phase = t'.phase := by
  cases h with
  | running => rfl
  | ended hr hp ho hr' hp' ho' hbus => rw [hp, hp']

/-- The two commands make the same transaction in each of their phases, and end together. -/
theorem Twins.step {b : Byte} {base : Word} {t t' : State} (h : Twins b base t t') :
    ∃ u u', Machine.step t = .next u ∧ Machine.step t' = .next u' ∧ Twins b base u u' := by
  cases h with
  | ended hr hp ho hr' hp' ho' hbus =>
    exact ⟨t, t', step_no_offer hr hp ho, step_no_offer hr' hp' ho', .ended hr hp ho hr' hp' ho' hbus⟩
  | @running tr hr hc hp hidx ho hm hbus =>
    let t' := asBuffer b base tr t
    have hne := ne_idle_of_mem_phases hp
    have hstep : Machine.step t = exec (.wrchar b base []) t := step_latched hr hne hc
    have hstep' : Machine.step t' = exec (.wrbytes 1#16 base [b]) t' := step_latched (s := t') hr hne rfl
    have hread := busEvents_read_asBuffer hc hbus
    obtain hs | hs | hs | hs : t.phase = .flagFe ∨ t.phase = .flagTe ∨ t.phase = .pollTx ∨ t.phase = .writeThr := by
      simpa [Instr.phases] using hp
    · refine ⟨_, _, hstep.trans (exec_flagFe (hs ▸ hp) hs), hstep'.trans (exec_flagFe (s := t') (hs ▸ hp) hs), ?_⟩
      exact .running (t := stepFlagFe t) hr hc (by simp [Instr.phases]) hidx ho (by simp) (hread Const.offFe)
    · have hpoll : .pollTx ∈ (Instr.wrchar b base []).phases := by simp [Instr.phases]
      refine ⟨_, _, hstep.trans (exec_transmit_flagTe hpoll hs),
        hstep'.trans (exec_transmit_flagTe (s := t') hpoll hs), ?_⟩
      exact .running (t := goTo .pollTx (readTe t)) hr hc hpoll hidx ho (fun _ => rfl) (hread Const.offTe)
    · obtain ⟨m, hmode⟩ := Option.isSome_iff_exists.1 (hm hs)
      have hexec := (exec_pollTx (hs ▸ hp) hs).trans (stepPollTx_of_mode hmode)
      have hexec' := (exec_pollTx (i := .wrbytes 1#16 base [b]) (s := t') (hs ▸ hp) hs).trans
        (stepPollTx_of_mode (s := t') hmode)
      refine ⟨_, _, hstep.trans hexec, hstep'.trans hexec', ?_⟩
      refine .running (t := goTo _ (busRead (t.addr Const.offLsr) t)) hr hc ?_ hidx ho (fun _ => hm hs)
        (hread Const.offLsr)
      rw [goTo_phase]
      split <;> simp [Instr.phases]
    · refine ⟨_, _, hstep.trans (exec_wrchar_writeThr hs b base []),
        hstep'.trans (exec_asBuffer_writeThr hs hidx tr), ?_⟩
      have hb : t.cmd.b = b := by rw [hc]; rfl
      refine .ended hr rfl ho hr rfl ho ?_
      simp only [complete_trace, writeThr_trace, busEvents_append, hbus, hb, asBuffer_addr hc]
      rfl

theorem Twins.run {b : Byte} {base : Word} (n : Nat) {t t' : State} (h : Twins b base t t') :
    ∃ u u', Machine.run n t = .next u ∧ Machine.run n t' = .next u' ∧ Twins b base u u' := by
  induction n generalizing t t' with
  | zero => exact ⟨t, t', rfl, rfl, h⟩
  | succ n ih =>
    obtain ⟨u, u', hu, hu', htwins⟩ := h.step
    rw [run_succ hu, run_succ hu']
    exact ih htwins

/-- Settles O55: the two commands start as twins, and twins stay so. -/
theorem oneByteBufferTracesAsWrchar : Obligations.OneByteBufferTracesAsWrchar := by
  intro s b base n hr hp hbase
  cases n with
  | zero => exact ⟨_, _, rfl, rfl, rfl, rfl⟩
  | succ n =>
    have hstep := step_accepts (s := { s with offers := [encode (.wrchar b base [])] }) hr hp rfl (decodeOfEncode _)
      (wellFormed_of_length_of_aligned rfl hbase)
    have hstep' := step_accepts (s := { s with offers := [encode (.wrbytes 1#16 base [b])] }) hr hp rfl
      (decodeOfEncode _) (wellFormed_of_length_of_aligned rfl hbase)
    have hstart : Twins b base (goTo .flagFe (latch (.wrchar b base []) (takeOffer (encode (.wrchar b base [])) [] s)))
        (goTo .flagFe (latch (.wrbytes 1#16 base [b]) (takeOffer (encode (.wrbytes 1#16 base [b])) [] s))) :=
      .running hr rfl (by simp [Instr.phases]) rfl rfl (by simp) (by simp [busEvents_append]; rfl)
    obtain ⟨u, u', hu, hu', htwins⟩ := hstart.run n
    exact ⟨u, u', (run_succ hstep n).trans hu, (run_succ hstep' n).trans hu', htwins.bus, htwins.phase⟩

end Sys2Proof.Machine
end
